-- ==== Sys2Proof/Word.lean ====
section
/-! DEFINITION. The plain value types of the machine: bytes, byte strings and device addresses (R10, R132). -/

namespace Sys2Proof

/-- A byte: an unsigned integer in `0..255` (R10). -/
abbrev Byte := BitVec 8

/-- A byte string: a finite sequence of bytes, index 0 first (R10). -/
abbrev ByteString := List Byte

/-- A device address: `DEVADDR_BITS` = 7 bits (R8, R39). -/
abbrev DevAddr := BitVec 7

end Sys2Proof
end

