-- ==== Sys2Proof/Config.lean ====
section
/-! DEFINITION. What is fixed while the machine runs: the hardwired frame constants (R17), the shape of the
configuration (R14, R15, R18), the values no source gives (free constants with no body), the answers of the bus
oracle (R128), and the reference parameter tuples of R9. -/

namespace Sys2Proof

/-- One ChecksumParameters record (R14, R15). `WIDTH` is the type's `w`, fixed at 8 for `crc8` and 16 for `crc16`. -/
structure CrcParams (w : Nat) where
  /-- The generator polynomial without its `x^w` term, the coefficient of `x^(w-1)` in bit `w-1` (D3). -/
  poly   : BitVec w
  /-- The value RESET loads. -/
  init   : BitVec w
  /-- Xored into the result by FINALIZE. -/
  xorout : BitVec w
  /-- Reflect each input byte. -/
  refin  : Bool
  /-- Reflect the accumulator before the output xor. -/
  refout : Bool
  deriving DecidableEq, Repr, Inhabited

/-- The configuration registers that an integrator chooses (R13, R16, R18); read-only to every operation. -/
structure Cfg where
  crc8      : CrcParams 8
  crc16     : CrcParams 16
  /-- 1 (true): the serial variant appends and checks the 16-bit trailer (R18). -/
  trailer16 : Bool
  deriving DecidableEq, Repr, Inhabited

/-- What the environment answers to one bus call (R126 to R129). `BusFail` carries no phase (D30). -/
inductive BusReply where
  /-- `BusOk`: every phase of a write was acknowledged. -/
  | busOk
  /-- `BusData(rx)`: the bytes a read returned. -/
  | busData (rx : ByteString)
  /-- `BusFail`: a start, acknowledge or write failure, or a driver timeout (R129). -/
  | busFail
  deriving DecidableEq, Repr, Inhabited

namespace Config

/-- The frame start delimiter (R17). -/
def START : Byte := 0xF1#8
/-- The frame end delimiter (R17). -/
def END : Byte := 0xFA#8
/-- The escape marker (R17). -/
def ESCAPE : Byte := 0xFF#8

/-- `CFG.CRC8` of this hardware: OPEN, in no source (R8, R14, D2). Free: nothing can evaluate it. Log entry 1. -/
opaque crc8 : CrcParams 8
/-- `CFG.CRC16` of this hardware: OPEN, in no source (R8, R15, D2). Free. Log entry 1. -/
opaque crc16 : CrcParams 16
/-- `CFG.TRAILER16` of this hardware: OPEN (R8, R18, D12). Free. Log entry 1. -/
opaque trailer16 : Bool
/-- The host's limit of consecutive errors: OPEN (R8, R173, D24). Free; used by the host's policy only. -/
opaque errThreshold : Nat
/-- The answer to the n-th bus call for which no answer stands ready in State: any answer (R128, U8). Free.
Log entry 5. -/
opaque freeReply : Nat → BusReply

/-- What `crc8.acc` holds on the hardware when the spec leaves it `⊥` for the n-th time: any value, in no source (R21,
R94, U2). Free. Log entry 2. -/
opaque freeAcc8 : Nat → BitVec 8
/-- What `crc16.acc` holds on the hardware when the spec leaves it `⊥` for the n-th time (R21, R94, U2). Free. Log
entry 2. -/
opaque freeAcc16 : Nat → BitVec 16

/-- The configuration CORE leaves reset with (R188). -/
def cfg : Cfg := { crc8 := crc8, crc16 := crc16, trailer16 := trailer16 }

/-- `CRC8_REF` (R9): for vectors only, says nothing of the real devices. -/
def crc8Ref : CrcParams 8 := { poly := 0x07#8, init := 0x00#8, xorout := 0x00#8, refin := false, refout := false }
/-- `CRC8_ALT` (R9). -/
def crc8Alt : CrcParams 8 := { poly := 0x31#8, init := 0x00#8, xorout := 0x00#8, refin := true, refout := true }
/-- `CRC16_REF` (R9). -/
def crc16Ref : CrcParams 16 := { poly := 0x1021#16, init := 0xFFFF#16, xorout := 0x0000#16, refin := false, refout := false }
/-- `CRC16_ALT` (R9). -/
def crc16Alt : CrcParams 16 := { poly := 0x1021#16, init := 0x0000#16, xorout := 0x0000#16, refin := false, refout := false }

end Config

end Sys2Proof
end

