-- ==== Sys2Proof/Machine/Operands.lean ====
section
/-! DEFINITION. Operands: their domains (R132), byte classes (R62), the addressing bytes (R67), the segments and
offsets of multi-register transactions (R71, R131), the bytes that lead a checksum (R70, R131) and the fields of a
message (R63, R124). -/

namespace Sys2Proof.Machine

/-- `b ∈ RESERVED = {START, END, ESCAPE}` (R17, R100). -/
def reserved (b : Byte) : Bool := b == Config.START || b == Config.END || b == Config.ESCAPE

/-- The number of reserved bytes in a byte string (R60, R102). -/
def reservedCount (X : ByteString) : Nat := X.countP reserved

/-- `dev ∈ 0..127` and `reg ∈ 0..255` (R132). Lengths and sizes are naturals and data bytes are bytes by their types. -/
def operandsInRange (dev reg : Nat) : Bool := decide (dev < 128) && decide (reg < 256)

/-- `AW(dev) = (dev << 1)[7:0]`: bits 7..1 the device address, bit 0 the write direction 0 (R67). -/
def addrByteW (dev : DevAddr) : Byte := dev.setWidth 8 <<< 1

/-- `AR(dev) = AW(dev) | 1`: bits 7..1 the device address, bit 0 the read direction 1 (R67). -/
def addrByteR (dev : DevAddr) : Byte := addrByteW dev ||| 1#8

/-- The device address of an addressing byte: its bits 7..1 (R67). -/
def devOfAddrByte (b : Byte) : DevAddr := (b >>> 1).setWidth 7

/-- `pre_w(dev, reg, 0)`: what the first register's write checksum covers before its own segment (R131). For every
later register it is `[]`. -/
def preW (dev : DevAddr) (reg : Byte) : ByteString := [addrByteW dev, reg]

/-- `pre_r(dev, reg, 0)`: what the first register's read checksum covers before its own segment (R131). For every
later register it is `[]`. -/
def preR (dev : DevAddr) (reg : Byte) : ByteString := [addrByteW dev, reg, addrByteR dev]

/-- `Σ s_i` (R71). -/
def sizeSum (regSizes : List Nat) : Nat := regSizes.sum

/-- `o_i = Σ_{j<i} s_j`: where segment `i` starts in the caller's contiguous data (R71, R131). -/
def segOffset (regSizes : List Nat) (i : Nat) : Nat := (regSizes.take i).sum

/-- `seg_i(D) = D[o_i .. o_i + s_i]` (R131). -/
def segment (regSizes : List Nat) (i : Nat) (D : ByteString) : ByteString :=
  (D.drop (segOffset regSizes i)).take (regSizes.getD i 0)

/-- Where block `i` starts in a received multi-register string: `o_i + i` (R71). -/
def rxBlockOffset (regSizes : List Nat) (i : Nat) : Nat := segOffset regSizes i + i

/-- Where block `i` starts in a WRM wire string: `1 + o_i + i` (R71, R141). -/
def wireBlockOffset (regSizes : List Nat) (i : Nat) : Nat := 1 + segOffset regSizes i + i

/-- A multi-register request is well formed: at least one register, and the sizes sum to the supplied length (R138). -/
def requestWellFormed (regSizes : List Nat) (length : Nat) : Bool :=
  !regSizes.isEmpty && sizeSum regSizes == length

/-- How many bytes READ_REG requests: `length + 1` (R71). -/
def readRegCount (length : Nat) : Nat := length + 1

/-- How many bytes READ_MULTI requests: `totalLength + k` (R71, R143). -/
def readMultiCount (regSizes : List Nat) (totalLength : Nat) : Nat := totalLength + regSizes.length

/-- The fields `kind`, `reg`, `data` of a delivered message; a message of fewer than two bytes has none (R63, R124). -/
def messageFields : ByteString → Option (Byte × Byte × ByteString)
  | kind :: reg :: data => some (kind, reg, data)
  | [_] => none
  | [] => none

end Sys2Proof.Machine
end

