-- ==== Sys2Proof/Syntax.lean ====
section
/-! DEFINITION. The instructions: one constructor per row of spec/opcode_table.json, with the typed operands of
R74 (for CMD rows), R62 (received bytes), R61 (escape pairs) and R67 (addressing bytes). -/

namespace Sys2Proof

/-- An instruction is an operation (a CMD row) or one wire byte or pair (92_eei_decisions.md, closing section).
`dev` and `reg` operands of the operations are naturals, so that a value outside its domain can be written and is
refused (R81, R132). -/
inductive Instr where
  /-- CRC8.RESET (R88). -/
  | crc8Reset
  /-- CRC8.UPDATE(B) (R89). -/
  | crc8Update (B : ByteString)
  /-- CRC8.FINALIZE (R90). -/
  | crc8Finalize
  /-- CRC16.RESET (R91). -/
  | crc16Reset
  /-- CRC16.UPDATE(B) (R92). -/
  | crc16Update (B : ByteString)
  /-- CRC16.FINALIZE (R93). -/
  | crc16Finalize
  /-- ENCODE(P, C), `C = []` when absent (R101). -/
  | encode (P C : ByteString)
  /-- DECODE(B) (R103, R105). -/
  | decode (B : ByteString)
  /-- WRITE_REG(dev, reg, data) (R134). -/
  | writeReg (dev reg : Nat) (data : ByteString)
  /-- READ_REG(dev, reg, length) (R136). -/
  | readReg (dev reg length : Nat)
  /-- WRITE_MULTI(dev, firstReg, regSizes, data) (R140). -/
  | writeMulti (dev firstReg : Nat) (regSizes : List Nat) (data : ByteString)
  /-- READ_MULTI(dev, firstReg, regSizes, totalLength) (R145). -/
  | readMulti (dev firstReg : Nat) (regSizes : List Nat) (totalLength : Nat)
  /-- The received byte START (R62). -/
  | startSym
  /-- The received byte END (R62). -/
  | endSym
  /-- The received byte ESCAPE (R62). -/
  | escapeSym
  /-- A received byte of the class LITERAL: any other value (R62). -/
  | literal (b : Byte)
  /-- The received escape pair `[FF F1]` (R61). -/
  | escStart
  /-- The received escape pair `[FF FA]` (R61). -/
  | escEnd
  /-- The received escape pair `[FF FF]` (R61). -/
  | escEsc
  /-- The write addressing byte `AW(dev)` (R67). -/
  | addrW (dev : DevAddr)
  /-- The read addressing byte `AR(dev)` (R67). -/
  | addrR (dev : DevAddr)
  deriving DecidableEq, Repr

end Sys2Proof
end

