-- ==== Sys2Proof/WellFormed.lean ====
section
/-! DEFINITION. Which instructions are well formed: every operand in its domain (R132), a literal byte of the class
LITERAL (R62). A size list that does not sum to the length is no matter of well-formedness: such a request executes
and ends in ProtocolViolation (R138). -/

namespace Sys2Proof

/-- Every operand of the instruction is in its domain. -/
def Instr.wellFormed : Instr → Bool
  | .crc8Reset => true
  | .crc8Update _ => true
  | .crc8Finalize => true
  | .crc16Reset => true
  | .crc16Update _ => true
  | .crc16Finalize => true
  | .encode _ _ => true
  | .decode _ => true
  | .writeReg dev reg _ => Machine.operandsInRange dev reg
  | .readReg dev reg _ => Machine.operandsInRange dev reg
  | .writeMulti dev firstReg _ _ => Machine.operandsInRange dev firstReg
  | .readMulti dev firstReg _ _ => Machine.operandsInRange dev firstReg
  | .startSym => true
  | .endSym => true
  | .escapeSym => true
  | .literal b => !Machine.reserved b
  | .escStart => true
  | .escEnd => true
  | .escEsc => true
  | .addrW _ => true
  | .addrR _ => true

end Sys2Proof
end

