-- ==== Sys2Proof/Decode.lean ====
section
/-! DEFINITION. Decoding and encoding (R59, R73 to R76, R81). A code is what one port of CORE carries: an operation
code with its typed operands on the host port (CMD), a received byte (FRAME), a received two-byte pair (PAIR), an
addressing byte (ADDR). Decoding is total and rejects by name. -/

namespace Sys2Proof

/-- The typed operands that stand beside an operation code on the host port (R74: "typed values, not packed bits").
An operation reads the lanes it has operands for; a lane that nothing drives is empty or zero. DESIGN CHOICE, safe,
log entry 3. -/
structure Operands where
  /-- `B`, `P` or `data`. -/
  bytes : ByteString := []
  /-- `C` of ENCODE, `[]` when absent (R101). -/
  extra : ByteString := []
  dev   : Nat := 0
  /-- `reg` or `firstReg`. -/
  reg   : Nat := 0
  /-- `length` or `totalLength`. -/
  count : Nat := 0
  /-- `regSizes`. -/
  sizes : List Nat := []
  deriving DecidableEq, Repr

/-- An encoded instruction, by its format (R59). -/
inductive Code where
  /-- CMD: the operation code and its operands (R73, R74). -/
  | cmd (op : Byte) (args : Operands)
  /-- FRAME: one received byte (R62). -/
  | frame (b : Byte)
  /-- PAIR: two received bytes, the first on the wire first (R61). -/
  | pair (first second : Byte)
  /-- ADDR: one addressing byte (R67). -/
  | addr (b : Byte)
  deriving DecidableEq, Repr

/-- Why a code is no instruction. -/
inductive Reject where
  /-- An operation code outside the table of R74 (R76). -/
  | reservedCommand (op : Byte)
  /-- Two bytes that are not ESCAPE and a reserved value (R61). -/
  | notAPair (first second : Byte)
  deriving DecidableEq, Repr

/-- The operation table of R74; every other operation code is reserved (R76). -/
def decodeCmd (op : Byte) (a : Operands) : Except Reject Instr :=
  if op = 0x10#8 then .ok .crc8Reset
  else if op = 0x11#8 then .ok (.crc8Update a.bytes)
  else if op = 0x12#8 then .ok .crc8Finalize
  else if op = 0x20#8 then .ok .crc16Reset
  else if op = 0x21#8 then .ok (.crc16Update a.bytes)
  else if op = 0x22#8 then .ok .crc16Finalize
  else if op = 0x30#8 then .ok (.encode a.bytes a.extra)
  else if op = 0x31#8 then .ok (.decode a.bytes)
  else if op = 0x40#8 then .ok (.writeReg a.dev a.reg a.bytes)
  else if op = 0x41#8 then .ok (.readReg a.dev a.reg a.count)
  else if op = 0x42#8 then .ok (.writeMulti a.dev a.reg a.sizes a.bytes)
  else if op = 0x43#8 then .ok (.readMulti a.dev a.reg a.sizes a.count)
  else .error (.reservedCommand op)

/-- The class of a received byte: START, END and ESCAPE are tested first, LITERAL is the default row (R62, R75). -/
def decodeFrame (b : Byte) : Instr :=
  if b = Config.START then .startSym
  else if b = Config.END then .endSym
  else if b = Config.ESCAPE then .escapeSym
  else .literal b

/-- The escape pairs (R61). -/
def decodePair (first second : Byte) : Except Reject Instr :=
  if first = Config.ESCAPE then
    if second = Config.START then .ok .escStart
    else if second = Config.END then .ok .escEnd
    else if second = Config.ESCAPE then .ok .escEsc
    else .error (.notAPair first second)
  else .error (.notAPair first second)

/-- The addressing bytes: bit 0 is the direction, bits 7..1 the device address (R67). -/
def decodeAddr (b : Byte) : Instr :=
  if b.getLsbD 0 then .addrR (Machine.devOfAddrByte b) else .addrW (Machine.devOfAddrByte b)

/-- The decoder, total on every code. -/
def decode : Code → Except Reject Instr
  | .cmd op args => decodeCmd op args
  | .frame b => .ok (decodeFrame b)
  | .pair first second => decodePair first second
  | .addr b => .ok (decodeAddr b)

/-- The code of an instruction, written from R61, R62, R67 and R74. -/
def encode : Instr → Code
  | .crc8Reset => .cmd 0x10#8 {}
  | .crc8Update B => .cmd 0x11#8 { bytes := B }
  | .crc8Finalize => .cmd 0x12#8 {}
  | .crc16Reset => .cmd 0x20#8 {}
  | .crc16Update B => .cmd 0x21#8 { bytes := B }
  | .crc16Finalize => .cmd 0x22#8 {}
  | .encode P C => .cmd 0x30#8 { bytes := P, extra := C }
  | .decode B => .cmd 0x31#8 { bytes := B }
  | .writeReg dev reg data => .cmd 0x40#8 { dev := dev, reg := reg, bytes := data }
  | .readReg dev reg length => .cmd 0x41#8 { dev := dev, reg := reg, count := length }
  | .writeMulti dev firstReg regSizes data => .cmd 0x42#8 { dev := dev, reg := firstReg, sizes := regSizes, bytes := data }
  | .readMulti dev firstReg regSizes totalLength => .cmd 0x43#8 { dev := dev, reg := firstReg, sizes := regSizes, count := totalLength }
  | .startSym => .frame 0xF1#8
  | .endSym => .frame 0xFA#8
  | .escapeSym => .frame 0xFF#8
  | .literal b => .frame b
  | .escStart => .pair 0xFF#8 0xF1#8
  | .escEnd => .pair 0xFF#8 0xFA#8
  | .escEsc => .pair 0xFF#8 0xFF#8
  | .addrW dev => .addr (Machine.addrByteW dev)
  | .addrR dev => .addr (Machine.addrByteR dev)

/-- Is the byte one of the twelve operation codes of R74? -/
def isOpCode (op : Byte) : Bool :=
  [0x10#8, 0x11#8, 0x12#8, 0x20#8, 0x21#8, 0x22#8, 0x30#8, 0x31#8, 0x40#8, 0x41#8, 0x42#8, 0x43#8].contains op

/-- The code that a word of spec/opcode_table.json stands for. Its rows belong to four formats, and one byte can match
rows of several: the row with the most fixed bits is taken, so CMD and the three delimiters (mask 0xFF) come first,
then ADDR (mask 0x01); LITERAL (mask 0x00, no fixed bit) is taken for a word of no bits. Two bytes are a PAIR, whose
first wire byte stands in bits 15..8 (the table's note). Operands the table gives no bits are empty or zero.
DESIGN CHOICE, safe, log entry 4. -/
def tableCode (nbits w : Nat) : Option Code :=
  let low : Byte := BitVec.ofNat 8 w
  if nbits = 0 then some (.frame low)
  else if nbits = 8 then
    if isOpCode low then some (.cmd low {})
    else if Machine.reserved low then some (.frame low)
    else some (.addr low)
  else if nbits = 16 then some (.pair (BitVec.ofNat 8 (w / 256)) low)
  else none

/-- The instruction the decoder reads from a word of the opcode table. -/
def decodeTableWord (nbits w : Nat) : Option Instr :=
  match tableCode nbits w with
  | none => none
  | some c =>
    match decode c with
    | .ok i => some i
    | .error _ => none

end Sys2Proof
end

