-- ==== Sys2Proof/Machine/State.lean ====
section
/-! DEFINITION. The state of the machine as plain data (R13), the values its operations return (R74, R103, R153), the
environment's records that its rules refer to (R176, R128), the ways a step can stop (R159), and reset (R33 to
R36). -/

namespace Sys2Proof.Machine

/-- What an accumulator holds: a value of its width, or `⊥` (R11, R13). In both cases the hardware's register holds some
bits; `⊥` says that no source names them (R21, R94). Log entry 2. -/
inductive Acc (w : Nat) where
  /-- `⊥`: left so by reset (R35) and by the composite operations (R123, R150). `held` is what the hardware holds: a free
  value when `⊥` arises, and what UPDATE makes of it afterwards. -/
  | bottom (held : BitVec w)
  /-- The raw remainder, before output reflection and output xor (R19). -/
  | val (v : BitVec w)
  deriving DecidableEq, Repr

/-- `dec.state` (R25). The value 3 of its 2-bit encoding does not exist (U5). -/
inductive DecState where
  | waitingForStart
  | accumulating
  | escaped
  deriving DecidableEq, Repr

/-- The decoder: `dec.state` and the unbounded accumulation buffer `dec.buf` (R22, R25). -/
structure Decoder where
  state : DecState
  buf   : ByteString
  deriving DecidableEq, Repr

/-- The sub-cause of a FramingError (R155). -/
inductive FramingCause where
  | unexpectedStart
  | invalidEscape
  deriving DecidableEq, Repr

/-- What DECODE emits (R103). -/
inductive Event where
  /-- A completed message: the whole unescaped content of a frame (R110). -/
  | msg (m : ByteString)
  | framingError (cause : FramingCause)
  deriving DecidableEq, Repr

/-- The four error classes (R153). -/
inductive ErrorClass where
  | framing (cause : FramingCause)
  | checksum
  | bus
  | protocolViolation
  deriving DecidableEq, Repr

/-- What an operation returns to the host (R74, R84, R154). -/
inductive Result where
  /-- No operation has returned since reset. -/
  | idle
  /-- An operation whose result is "none". -/
  | done
  /-- The running value of the 8-bit engine, or a checksum read as a number. -/
  | value8 (v : BitVec 8)
  /-- The running value of the 16-bit engine, or a checksum read as a number. -/
  | value16 (v : BitVec 16)
  /-- Checksum bytes, a wire byte string, or an addressing byte. -/
  | bytes (b : ByteString)
  /-- The event list of a DECODE call. -/
  | events (ev : List Event)
  /-- `Ok` of a write. -/
  | ok
  /-- `Ok(data)` of a read. -/
  | okData (data : ByteString)
  /-- `Ok(message)` of CHECKMSG. -/
  | okMessage (m : ByteString)
  /-- `Err(e)`. -/
  | err (e : ErrorClass)
  /-- What `connect` returned. -/
  | connected (success : Bool)
  deriving DecidableEq, Repr

/-- One call of a bus primitive (R126, R127). -/
inductive BusCall where
  /-- `BusWrite(dev, W)`. -/
  | write (dev : DevAddr) (W : ByteString)
  /-- `BusRead(dev, reg, n)`. -/
  | read (dev : DevAddr) (reg : Byte) (n : Nat)
  deriving DecidableEq, Repr

/-- The ConnectionSession record of the environment (R176): the port the physical connection is bound to, if one is
open, and the set of referencing consumers. Names of ports and consumers are uninterpreted numbers; the set is a
strictly rising list, so that equal sets are equal data. Log entry 10. -/
structure Session where
  port      : Option Nat
  consumers : List Nat
  deriving DecidableEq, Repr

/-- What the outside world does, one at a time (R52, R204). -/
inductive Input where
  /-- An encoded instruction at one of CORE's ports. -/
  | code (c : Code)
  /-- A chunk of received bytes is handed to DECODE (R104, R162, R182). -/
  | deliver (B : ByteString)
  /-- The pseudo-operation CRC8(B) (R84, R95). -/
  | checksum8 (B : ByteString)
  /-- The pseudo-operation CRC16(B) (R84, R95). -/
  | checksum16 (B : ByteString)
  /-- The pseudo-operation SENDMSG(M) (R120). -/
  | sendMsg (M : ByteString)
  /-- The pseudo-operation CHECKMSG(F) (R121). -/
  | checkMsg (F : ByteString)
  /-- The host places bytes on TX (R42). -/
  | transmit (W : ByteString)
  /-- `connect(consumer, port)` (R177); `opens` is whether a physical connection could be opened, which the
  environment chooses. -/
  | connect (consumer port : Nat) (opens : Bool)
  /-- `disconnect(consumer)` (R178). -/
  | disconnect (consumer : Nat)
  /-- RESET_CORE (R185). -/
  | resetCore
  deriving DecidableEq, Repr

/-- The state (R13), the environment it is gated and answered by (R176, R128), and what leaves CORE. -/
structure State where
  /-- CFG: read-only (R16). Log entry 1. -/
  cfg     : Cfg
  /-- `crc8.acc` (R19). -/
  acc8    : Acc 8
  /-- `crc16.acc` (R20). -/
  acc16   : Acc 16
  /-- `dec.state` and `dec.buf` (R22, R25). -/
  dec     : Decoder
  /-- The environment's session (R176). -/
  session : Session
  /-- Inputs not yet taken, next first. The model's own field, log entry 9. -/
  input   : List Input
  /-- Bus answers the environment has ready, next first. The model's own field, log entry 5. -/
  replies : List BusReply
  /-- How many free bus answers have been used. The model's own field, log entry 6. -/
  freeIx  : Nat
  /-- How many free accumulator values have been used. The model's own field, log entry 25. -/
  accIx   : Nat
  /-- The model fault UnwrittenAcc has been recorded: UPDATE or FINALIZE used an accumulator that held `⊥`. Never cleared
  (R94, R159), read by no operation. Not a flag of CORE (R28). Log entry 2. -/
  unwrittenAcc : Bool
  /-- The bus calls made, oldest first. The model's own field, log entry 8. -/
  busLog  : List BusCall
  /-- The bytes placed on TX, oldest first (R41). Log entry 8. -/
  tx      : ByteString
  /-- What the last operation returned. The model's own field, read by no operation, log entry 7. -/
  result  : Result
  deriving DecidableEq, Repr

/-- How a step stops with a fault: in no way. The spec's errors are results and events (R153), and its one model fault,
UnwrittenAcc, is recorded while the run goes on (R94, the field `unwrittenAcc`). -/
inductive Fault where
  deriving DecidableEq, Repr

/-- How a step stops with a refusal (R159). -/
inductive Refusal where
  /-- An instruction that has no meaning in the model yet, by its mnemonic: raised by arms of `exec` only. Safe. -/
  | notModelled (mnemonic : String)
  /-- `refuse ReservedCommand` (R76): raised where a CMD code is decoded. Safe: the spec defines no behaviour. -/
  | reservedCommand (op : Byte)
  /-- Two bytes at the PAIR format that are no escape pair (R61): raised where a PAIR code is decoded. Safe; the same
  two bytes can be delivered as received bytes. Log entry 18. -/
  | notAPair (first second : Byte)
  /-- `refuse OperandRange` (R132): raised by the four transaction operations, and by `execLiteral` for a byte that is
  no literal. Safe: such operands cannot be encoded (R81). -/
  | operandRange
  /-- `refuse NotConnected` (R151, R182): raised by the transaction operations, received bytes, SENDMSG and `transmit`
  when no session is open. Safe: the spec gives such a use no meaning. -/
  | notConnected
  deriving DecidableEq, Repr

/-- The decoder after reset (R34). -/
def Decoder.reset : Decoder := { state := .waitingForStart, buf := [] }

/-- The session after reset: no physical connection, no consumer (R36, R176). -/
def Session.closed : Session := { port := none, consumers := [] }

/-- The machine right after reset (R33 to R36): the configuration holds its constants, both accumulators hold `⊥` over a
free value, the decoder waits for a start, the session is closed, no model fault is recorded. The model's own fields are
empty (log entries 5 to 9, 25). -/
def State.reset : State :=
  { cfg := Config.cfg, acc8 := .bottom (Config.freeAcc8 0), acc16 := .bottom (Config.freeAcc16 0), dec := .reset,
    session := .closed, input := [], replies := [], freeIx := 0, accIx := 1,
    unwrittenAcc := false, busLog := [], tx := [], result := .idle }

end Sys2Proof.Machine
end

