-- ==== Sys2Proof/Machine/Flags.lean ====
section
/-! DEFINITION. Status. CORE has no condition codes and no sticky flags (R28); what stands in their place is the code
of a result (R154), the code of the decoder's state (R25), the messages of an event list (R103) and the host's count
of consecutive errors, which is the host's and not CORE's (R173). -/

namespace Sys2Proof.Machine

/-- `dec.state` as a register of 2 bits (R25). -/
def DecState.code : DecState → BitVec 2
  | .waitingForStart => 0
  | .accumulating => 1
  | .escaped => 2

/-- Error codes (R154). -/
def ErrorClass.code : ErrorClass → Nat
  | .framing .unexpectedStart => 1
  | .framing .invalidEscape => 2
  | .checksum => 3
  | .bus => 4
  | .protocolViolation => 5

/-- The error class an event reports (R155). -/
def Event.error? : Event → Option ErrorClass
  | .msg _ => none
  | .framingError cause => some (.framing cause)

/-- The message an event carries. -/
def Event.message? : Event → Option ByteString
  | .msg m => some m
  | .framingError _ => none

/-- MA's return value of DECODE: the messages of the event list, in order (R103). -/
def messagesOf (ev : List Event) : List ByteString := ev.filterMap Event.message?

/-- The code of an operation's own result: 0 when it did not end in an error (R154). Events of DECODE carry their own
codes (`Event.error?`). -/
def Result.code : Result → Nat
  | .err e => e.code
  | .idle => 0
  | .done => 0
  | .value8 _ => 0
  | .value16 _ => 0
  | .bytes _ => 0
  | .events _ => 0
  | .ok => 0
  | .okData _ => 0
  | .okMessage _ => 0
  | .connected _ => 0

/-- The host's count after one more result: ChecksumError and BusError count, the Ok of a transaction operation clears
the count, nothing else changes it (R173). -/
def hostErrorCount (n : Nat) : Result → Nat
  | .err .checksum => n + 1
  | .err .bus => n + 1
  | .ok => 0
  | .okData _ => 0
  | .err (.framing _) => n
  | .err .protocolViolation => n
  | .idle => n
  | .done => n
  | .value8 _ => n
  | .value16 _ => n
  | .bytes _ => n
  | .events _ => n
  | .okMessage _ => n
  | .connected _ => n

/-- The host acts as after a BusError (it disconnects) when the count exceeds `ERR_THRESHOLD` (R171, R173). -/
def hostMustDisconnect (n : Nat) : Bool := decide (Config.errThreshold < n)

end Sys2Proof.Machine
end

