-- ==== Sys2Proof/Machine/Ops.lean ====
section
/-! DEFINITION. The shared operations: the CRC arithmetic (R86, R87, R95), the byte-stuffing encoder (R100, R101), the
decoder's transition and its fold (R105 to R113), the blocks of multi-register transactions (R140, R145), the bus
calls (R126 to R128), the ways an operation ends (R11, R168) and the session gate (R182). -/

namespace Sys2Proof.Machine

/-! ### ChecksumEngine -/

section Crc
variable {w : Nat}

/-- `reflect_N(v)`: bit `i` of the result is bit `N-1-i` of `v` (R86). -/
def reflect (v : BitVec w) : BitVec w := v.reverse

/-- One shift of the register: the bit shifted out of position `w-1` decides whether POLY is added (R87). -/
def crcShift (p : CrcParams w) (a : BitVec w) : BitVec w :=
  if a.msb then (a <<< 1) ^^^ p.poly else a <<< 1

/-- `n` shifts of the register. -/
def crcShifts (p : CrcParams w) : Nat → BitVec w → BitVec w
  | 0, a => a
  | n + 1, a => crcShifts p n (crcShift p a)

/-- The byte as it enters the register: reflected when REFIN (R45, R87). -/
def crcInput (p : CrcParams w) (b : Byte) : Byte := if p.refin then reflect b else b

/-- The byte enters at the top of the register (R87). -/
def crcEnter (p : CrcParams w) (a : BitVec w) (b : Byte) : BitVec w :=
  a ^^^ ((crcInput p b).setWidth w <<< (w - 8))

/-- `step(p, a, b)` (R87). -/
def crcStep (p : CrcParams w) (a : BitVec w) (b : Byte) : BitVec w := crcShifts p 8 (crcEnter p a b)

/-- `fold(p, a, B)` (R87). -/
def crcFold (p : CrcParams w) (a : BitVec w) (B : ByteString) : BitVec w := B.foldl (crcStep p) a

/-- `out(p, a)` (R86). -/
def crcOut (p : CrcParams w) (a : BitVec w) : BitVec w := (if p.refout then reflect a else a) ^^^ p.xorout

/-- The byte of `v` whose most significant bit stands `8 * (i + 1)` places below the top. -/
def byteFromTop (v : BitVec w) (i : Nat) : Byte := (v >>> (w - 8 * (i + 1))).setWidth 8

/-- `ser(p, v)`: the `w/8` bytes of `v`, most significant first (R43, R86). -/
def ser (v : BitVec w) : ByteString := (List.range (w / 8)).map (byteFromTop v)

/-- `CRC(p, B)` (R95). -/
def crc (p : CrcParams w) (B : ByteString) : BitVec w := crcOut p (crcFold p p.init B)

/-- `csum(p, B)`: the checksum in its wire form (R95). -/
def csum (p : CrcParams w) (B : ByteString) : ByteString := ser (crc p B)

/-- `ZeroResidue(p)` (R97): the condition a configured parameter tuple must meet. -/
def ZeroResidue (p : CrcParams w) : Prop := ∀ B : ByteString, crc p (B ++ csum p B) = 0#w

end Crc

/-! ### Accumulators -/

/-- The bits the register holds, named by the spec or not. -/
def Acc.held {w : Nat} : Acc w → BitVec w
  | .bottom held => held
  | .val v => v

/-- Does the accumulator hold `⊥`? -/
def Acc.isBottom {w : Nat} : Acc w → Bool
  | .bottom _ => true
  | .val _ => false

/-- The accumulator after `B` has been folded into it: from `⊥` still `⊥`, since RESET is the only way out (R88). -/
def Acc.fold {w : Nat} (p : CrcParams w) (B : ByteString) : Acc w → Acc w
  | .bottom held => .bottom (crcFold p held B)
  | .val v => .val (crcFold p v B)

/-- `fault UnwrittenAcc` when `onBottom`: the model fault is recorded for the rest of the run (R94, P1 of
95_test_vectors.md), and the hardware computes from what the register holds. Log entry 2. -/
def State.recordUse (s : State) (onBottom : Bool) : State := { s with unwrittenAcc := s.unwrittenAcc || onBottom }

/-! ### FrameCodec -/

/-- `esc(b)` (R100). -/
def esc (b : Byte) : ByteString := if reserved b then [Config.ESCAPE, b] else [b]

/-- `escaped(X)` (R60, R100). -/
def escaped (X : ByteString) : ByteString := X.flatMap esc

/-- `ENCODE(P, C)` as a function (R24, R101). -/
def encodeFrame (P C : ByteString) : ByteString := [Config.START] ++ escaped (P ++ C) ++ [Config.END]

/-- `dstep(b)`: the one transition that `dec.state` and the class of `b` select, and what it emits (R105 to R113). The
listed three-state table is followed (90_conflicts.md C1). -/
def dstep (d : Decoder) (b : Byte) : Decoder × List Event :=
  match d.state with
  | .waitingForStart =>
    if b = Config.START then ({ state := .accumulating, buf := [] }, [])             -- R107
    else (d, [])                                                                     -- R106
  | .accumulating =>
    if b = Config.START then
      ({ state := .accumulating, buf := [] }, [.framingError .unexpectedStart])      -- R109
    else if b = Config.END then ({ state := .waitingForStart, buf := [] }, [.msg d.buf])  -- R110
    else if b = Config.ESCAPE then ({ state := .escaped, buf := d.buf }, [])         -- R108
    else ({ state := .accumulating, buf := d.buf ++ [b] }, [])                       -- R111
  | .escaped =>
    if reserved b then ({ state := .accumulating, buf := d.buf ++ [b] }, [])         -- R112
    else ({ state := .waitingForStart, buf := [] }, [.framingError .invalidEscape])  -- R113

/-- `DECODE(B)` as a function: the transitions of the bytes in order, the events in byte order (R105, R114). -/
def decodeBytes (d : Decoder) : ByteString → Decoder × List Event
  | [] => (d, [])
  | b :: B => ((decodeBytes (dstep d b).1 B).1, (dstep d b).2 ++ (decodeBytes (dstep d b).1 B).2)

/-! ### How an operation ends -/

/-- The operation returns `r` to the host. -/
def State.return (s : State) (r : Result) : State := { s with result := r }

/-- `raise E`: the operation ends with `Err(E)`, and nothing else changes here (R11, R168). No pc is saved and control
goes nowhere; there is no return from an error (R170). -/
def State.raise (s : State) (e : ErrorClass) : State := s.return (.err e)

/-- `crc8.acc <- ⊥` (R150, R185): what the hardware then holds is a free value. -/
def State.dropAcc8 (s : State) : State := { s with acc8 := .bottom (Config.freeAcc8 s.accIx), accIx := s.accIx + 1 }

/-- `crc16.acc <- ⊥` (R123, R185): what the hardware then holds is a free value. -/
def State.dropAcc16 (s : State) : State := { s with acc16 := .bottom (Config.freeAcc16 s.accIx), accIx := s.accIx + 1 }

/-- The decoder consumes received bytes and the host is returned the events (R103, R105). -/
def State.receive (s : State) (B : ByteString) : State :=
  { s with dec := (decodeBytes s.dec B).1, result := .events (decodeBytes s.dec B).2 }

/-! ### The session gate -/

/-- `session_open`: a physical connection is open (R31, R182). -/
def Session.isOpen (x : Session) : Bool := x.port.isSome

/-- What happens only while a session is open (R182); otherwise `refuse NotConnected` (R151). -/
def whenConnected (s : State) (next : State) : Host.Outcome State Fault Refusal :=
  if s.session.isOpen then .next next else .refused .notConnected

/-! ### The bus -/

/-- The answer to the next bus call: the one that stands ready, else a free one (R128). -/
def State.nextReply (s : State) : BusReply :=
  match s.replies with
  | r :: _ => r
  | [] => Config.freeReply s.freeIx

/-- The state after the next answer has been taken. -/
def State.popReply (s : State) : State :=
  match s.replies with
  | _ :: rs => { s with replies := rs }
  | [] => { s with freeIx := s.freeIx + 1 }

/-- The state after one bus call: it is on the bus (R53, R148) and its answer is taken. -/
def State.busCall (s : State) (c : BusCall) : State :=
  { s.popReply with busLog := s.busLog ++ [c] }

/-- Was a write acknowledged? Anything but `BusOk` is a `BusFail` (R126, R129). Log entry 5. -/
def replyAcknowledges : BusReply → Bool
  | .busOk => true
  | .busData _ => false
  | .busFail => false

/-- The bytes of a read: exactly the `n` requested, anything else is a `BusFail` (R127, D17). -/
def replyData (n : Nat) : BusReply → Option ByteString
  | .busData rx => if rx.length = n then some rx else none
  | .busOk => none
  | .busFail => none

/-! ### RegisterTransactionLayer -/

/-- The blocks of a multi-register stream: each segment followed by its checksum, the first checksum covering `pre`
too, every later one its own segment alone (R68, R70, R140). -/
def blocks (p : CrcParams 8) : ByteString → List Nat → ByteString → ByteString
  | _, [], _ => []
  | pre, n :: sizes, data =>
    data.take n ++ csum p (pre ++ data.take n) ++ blocks p [] sizes (data.drop n)

/-- The walk of a received stream: block by block in ascending order, giving up at the first block whose checksum is
not zero, else the segments joined (R70, R145). -/
def verifyBlocks (p : CrcParams 8) : ByteString → List Nat → ByteString → Option ByteString
  | _, [], _ => some []
  | pre, n :: sizes, rx =>
    if crc p (pre ++ rx.take (n + 1)) = 0#8 then
      match verifyBlocks p [] sizes (rx.drop (n + 1)) with
      | some out => some ((rx.take (n + 1)).take n ++ out)
      | none => none
    else none

/-- `T_BUS` and `T_DONE` of a write: one bus call, `Ok` or BusError, `crc8.acc <- ⊥` (R134, R140, R147). -/
def State.writeTransaction (s : State) (dev : DevAddr) (W : ByteString) : State :=
  let s' := (s.busCall (.write dev W)).dropAcc8
  if replyAcknowledges s.nextReply then s'.return .ok else s'.raise .bus

/-- `T_BUS`, `T_VERIFY` and `T_DONE` of a read: one bus call, BusError when it fails, else what `verify` makes of the
bytes, data or ChecksumError, `crc8.acc <- ⊥` (R136, R137, R145, R147). -/
def State.readTransaction (s : State) (dev : DevAddr) (reg : Byte) (n : Nat)
    (verify : ByteString → Option ByteString) : State :=
  let s' := (s.busCall (.read dev reg n)).dropAcc8
  match replyData n s.nextReply with
  | none => s'.raise .bus
  | some rx =>
    match verify rx with
    | some out => s'.return (.okData out)
    | none => s'.raise .checksum

/-- `T_CHECK` of the four transaction operations: OperandRange before any other rule, then NotConnected (R132, R151,
R165). -/
def transaction (dev reg : Nat) (s : State) (body : DevAddr → Byte → State) : Host.Outcome State Fault Refusal :=
  if operandsInRange dev reg then whenConnected s (body (BitVec.ofNat 7 dev) (BitVec.ofNat 8 reg))
  else .refused .operandRange

end Sys2Proof.Machine
end

