-- ==== Sys2Proof/Machine/Checksum.lean ====
section
/-! DEFINITION. The six operations of the ChecksumEngine (R88 to R94). -/

namespace Sys2Proof.Machine

/-- CRC8.RESET (R88). -/
def execCrc8Reset (s : State) : Host.Outcome State Fault Refusal :=
  .next (State.return { s with acc8 := .val s.cfg.crc8.init } .done)

/-- CRC8.UPDATE(B): the running value is the new raw accumulator (R89). On `⊥` the model fault is recorded and the
hardware computes from what the register holds (R94). -/
def execCrc8Update (B : ByteString) (s : State) : Host.Outcome State Fault Refusal :=
  .next (State.return { s.recordUse s.acc8.isBottom with acc8 := s.acc8.fold s.cfg.crc8 B }
    (.value8 (crcFold s.cfg.crc8 s.acc8.held B)))

/-- CRC8.FINALIZE: does not write the accumulator (R90). On `⊥` as UPDATE (R94). -/
def execCrc8Finalize (s : State) : Host.Outcome State Fault Refusal :=
  .next ((s.recordUse s.acc8.isBottom).return (.bytes (ser (crcOut s.cfg.crc8 s.acc8.held))))

/-- CRC16.RESET (R91). -/
def execCrc16Reset (s : State) : Host.Outcome State Fault Refusal :=
  .next (State.return { s with acc16 := .val s.cfg.crc16.init } .done)

/-- CRC16.UPDATE(B): the running value is the new raw accumulator (R92). On `⊥` the model fault is recorded and the
hardware computes from what the register holds (R94). -/
def execCrc16Update (B : ByteString) (s : State) : Host.Outcome State Fault Refusal :=
  .next (State.return { s.recordUse s.acc16.isBottom with acc16 := s.acc16.fold s.cfg.crc16 B }
    (.value16 (crcFold s.cfg.crc16 s.acc16.held B)))

/-- CRC16.FINALIZE: two bytes, high byte first; does not write the accumulator (R93). On `⊥` as UPDATE (R94). -/
def execCrc16Finalize (s : State) : Host.Outcome State Fault Refusal :=
  .next ((s.recordUse s.acc16.isBottom).return (.bytes (ser (crcOut s.cfg.crc16 s.acc16.held))))

end Sys2Proof.Machine
end

