-- ==== Sys2Proof/Machine/FrameCodec.lean ====
section
/-! DEFINITION. The FrameCodec: ENCODE and DECODE on bytes the host supplies (R101, R105), which no session gates
(D25), and the received bytes and escape pairs, which are delivered only while a session is open (R61, R75, R182). -/

namespace Sys2Proof.Machine

/-- ENCODE(P, C): reads and writes no state, cannot fail (R101). -/
def execEncode (P C : ByteString) (s : State) : Host.Outcome State Fault Refusal :=
  .next (s.return (.bytes (encodeFrame P C)))

/-- DECODE(B) (R103, R105). -/
def execDecode (B : ByteString) (s : State) : Host.Outcome State Fault Refusal := .next (s.receive B)

/-- The received byte START: R107, R109 or R112 by `dec.state`. -/
def execStart (s : State) : Host.Outcome State Fault Refusal := whenConnected s (s.receive [Config.START])

/-- The received byte END: R106, R110 or R112 by `dec.state`. -/
def execEnd (s : State) : Host.Outcome State Fault Refusal := whenConnected s (s.receive [Config.END])

/-- The received byte ESCAPE: R106, R108 or R112 by `dec.state`. -/
def execEscape (s : State) : Host.Outcome State Fault Refusal := whenConnected s (s.receive [Config.ESCAPE])

/-- A received literal byte: R106, R111 or R113 by `dec.state`. A reserved byte is no literal: it cannot be encoded as
one and is refused (R62, R81). Log entry 14. -/
def execLiteral (b : Byte) (s : State) : Host.Outcome State Fault Refusal :=
  if reserved b then .refused .operandRange else whenConnected s (s.receive [b])

/-- The received pair `[FF F1]` (R61, R108, R112). -/
def execEscStart (s : State) : Host.Outcome State Fault Refusal :=
  whenConnected s (s.receive [Config.ESCAPE, Config.START])

/-- The received pair `[FF FA]` (R61, R108, R112). -/
def execEscEnd (s : State) : Host.Outcome State Fault Refusal :=
  whenConnected s (s.receive [Config.ESCAPE, Config.END])

/-- The received pair `[FF FF]` (R61, R108, R112). -/
def execEscEsc (s : State) : Host.Outcome State Fault Refusal :=
  whenConnected s (s.receive [Config.ESCAPE, Config.ESCAPE])

end Sys2Proof.Machine
end

