-- ==== Sys2Proof/Machine/RegTxn.lean ====
section
/-! DEFINITION. The RegisterTransactionLayer (R134 to R151) and the addressing bytes (R67). -/

namespace Sys2Proof.Machine

/-- The wire string WR1 of a single-register write: `[reg] ++ data ++ c` (R65, R134). -/
def writeRegWire (p : CrcParams 8) (dev : DevAddr) (reg : Byte) (data : ByteString) : ByteString :=
  [reg] ++ data ++ csum p (preW dev reg ++ data)

/-- WRITE_REG (R134). -/
def execWriteReg (dev reg : Nat) (data : ByteString) (s : State) : Host.Outcome State Fault Refusal :=
  transaction dev reg s fun d r => s.writeTransaction d (writeRegWire s.cfg.crc8 d r data)

/-- What READ_REG makes of the `length + 1` received bytes (R136). -/
def verifyReg (p : CrcParams 8) (dev : DevAddr) (reg : Byte) (length : Nat) (rx : ByteString) : Option ByteString :=
  if crc p (preR dev reg ++ rx) = 0#8 then some (rx.take length) else none

/-- READ_REG (R136). -/
def execReadReg (dev reg length : Nat) (s : State) : Host.Outcome State Fault Refusal :=
  transaction dev reg s fun d r =>
    s.readTransaction d r (readRegCount length) (verifyReg s.cfg.crc8 d r length)

/-- The wire string WRM of a multi-register write: `[firstReg] ++ block_0 ++ ...` (R68, R140). -/
def writeMultiWire (p : CrcParams 8) (dev : DevAddr) (firstReg : Byte) (regSizes : List Nat) (data : ByteString) :
    ByteString :=
  [firstReg] ++ blocks p (preW dev firstReg) regSizes data

/-- WRITE_MULTI: a request that is not well formed ends in ProtocolViolation before any bus activity (R139, R140). -/
def execWriteMulti (dev firstReg : Nat) (regSizes : List Nat) (data : ByteString) (s : State) :
    Host.Outcome State Fault Refusal :=
  transaction dev firstReg s fun d r =>
    if requestWellFormed regSizes data.length then
      s.writeTransaction d (writeMultiWire s.cfg.crc8 d r regSizes data)
    else s.raise .protocolViolation

/-- READ_MULTI: a request that is not well formed ends in ProtocolViolation before any bus activity (R144, R145). -/
def execReadMulti (dev firstReg : Nat) (regSizes : List Nat) (totalLength : Nat) (s : State) :
    Host.Outcome State Fault Refusal :=
  transaction dev firstReg s fun d r =>
    if requestWellFormed regSizes totalLength then
      s.readTransaction d r (readMultiCount regSizes totalLength) (verifyBlocks s.cfg.crc8 (preR d r) regSizes)
    else s.raise .protocolViolation

/-- ADDR_W: forms the write addressing byte (R58, R67); changes nothing (R13). Log entry 12. -/
def execAddrW (dev : DevAddr) (s : State) : Host.Outcome State Fault Refusal :=
  .next (s.return (.bytes [addrByteW dev]))

/-- ADDR_R: forms the read addressing byte (R58, R67); changes nothing (R13). Log entry 12. -/
def execAddrR (dev : DevAddr) (s : State) : Host.Outcome State Fault Refusal :=
  .next (s.return (.bytes [addrByteR dev]))

end Sys2Proof.Machine
end

