-- ==== Sys2Proof/Machine/Dispatch.lean ====
section
/-! DEFINITION. One arm per instruction. -/

namespace Sys2Proof.Machine

def exec (i : Instr) (s : State) : Host.Outcome State Fault Refusal :=
  match i with
  -- ChecksumEngine
  | .crc8Reset => Sys2Proof.Machine.execCrc8Reset s
  | .crc8Update B => Sys2Proof.Machine.execCrc8Update B s
  | .crc8Finalize => Sys2Proof.Machine.execCrc8Finalize s
  | .crc16Reset => Sys2Proof.Machine.execCrc16Reset s
  | .crc16Update B => Sys2Proof.Machine.execCrc16Update B s
  | .crc16Finalize => Sys2Proof.Machine.execCrc16Finalize s
  -- FrameCodec
  | .encode P C => Sys2Proof.Machine.execEncode P C s
  | .decode B => Sys2Proof.Machine.execDecode B s
  -- RegisterTransactionLayer
  | .writeReg dev reg data => Sys2Proof.Machine.execWriteReg dev reg data s
  | .readReg dev reg length => Sys2Proof.Machine.execReadReg dev reg length s
  | .writeMulti dev firstReg regSizes data => Sys2Proof.Machine.execWriteMulti dev firstReg regSizes data s
  | .readMulti dev firstReg regSizes totalLength => Sys2Proof.Machine.execReadMulti dev firstReg regSizes totalLength s
  -- received bytes
  | .startSym => Sys2Proof.Machine.execStart s
  | .endSym => Sys2Proof.Machine.execEnd s
  | .escapeSym => Sys2Proof.Machine.execEscape s
  | .literal b => Sys2Proof.Machine.execLiteral b s
  -- received escape pairs
  | .escStart => Sys2Proof.Machine.execEscStart s
  | .escEnd => Sys2Proof.Machine.execEscEnd s
  | .escEsc => Sys2Proof.Machine.execEscEsc s
  -- addressing bytes
  | .addrW dev => Sys2Proof.Machine.execAddrW dev s
  | .addrR dev => Sys2Proof.Machine.execAddrR dev s

end Sys2Proof.Machine
end

