-- ==== Sys2Proof/Machine/Pseudo.lean ====
section
/-! DEFINITION. What has no operation code: the pseudo-operations CRC8(B), CRC16(B), SENDMSG and CHECKMSG (R84, R95,
R120 to R123), the delivery of received bytes (R104, R182), the host's act of placing bytes on TX (R42) and the event
RESET_CORE (R185). -/

namespace Sys2Proof.Machine

/-- CRC8(B): `RESET; UPDATE(B); FINALIZE`, the result read as a number (R84, R95). Log entry 17. -/
def runChecksum8 (B : ByteString) (s : State) : Host.Outcome State Fault Refusal :=
  .next (State.return { s with acc8 := .val (crcFold s.cfg.crc8 s.cfg.crc8.init B) } (.value8 (crc s.cfg.crc8 B)))

/-- CRC16(B): `RESET; UPDATE(B); FINALIZE`, the result read as a number (R84, R95). Log entry 17. -/
def runChecksum16 (B : ByteString) (s : State) : Host.Outcome State Fault Refusal :=
  .next (State.return { s with acc16 := .val (crcFold s.cfg.crc16 s.cfg.crc16.init B) } (.value16 (crc s.cfg.crc16 B)))

/-- The wire string of SENDMSG(M) (R120). -/
def sendMsgWire (cfg : Cfg) (M : ByteString) : ByteString :=
  if cfg.trailer16 then encodeFrame M (csum cfg.crc16 M) else encodeFrame M []

/-- `crc16.acc <- ⊥` when the trailer is enabled (R123). -/
def State.afterTrailer (s : State) : State := if s.cfg.trailer16 then s.dropAcc16 else s

/-- SENDMSG(M): the wire string is returned and placed on TX (R42, R120, R123), while a session is open (R182). -/
def runSendMsg (M : ByteString) (s : State) : Host.Outcome State Fault Refusal :=
  whenConnected s
    (State.return { s.afterTrailer with tx := s.tx ++ sendMsgWire s.cfg M } (.bytes (sendMsgWire s.cfg M)))

/-- What CHECKMSG makes of the content of a frame (R121, R122). -/
def checkMsgResult (cfg : Cfg) (F : ByteString) : Result :=
  if cfg.trailer16 then
    if F.length < 2 then .err .checksum
    else if crc cfg.crc16 F = 0#16 then .okMessage (F.take (F.length - 2))
    else .err .checksum
  else .okMessage F

/-- CHECKMSG(F): not gated, does not touch the decoder (R121, R123, R182). -/
def runCheckMsg (F : ByteString) (s : State) : Host.Outcome State Fault Refusal :=
  .next (s.afterTrailer.return (checkMsgResult s.cfg F))

/-- A chunk of received bytes is handed to DECODE, while a session is open (R104, R182). -/
def runDeliver (B : ByteString) (s : State) : Host.Outcome State Fault Refusal := whenConnected s (s.receive B)

/-- The host places bytes on TX (R42), while a session is open (R182). Log entry 16. -/
def runTransmit (W : ByteString) (s : State) : Host.Outcome State Fault Refusal :=
  whenConnected s (State.return { s with tx := s.tx ++ W } .done)

/-- RESET_CORE (R185): the decoder and both accumulators; the environment's session is closed after it (R36, R176). What
has left CORE and what waits outside it is untouched. Log entry 11. -/
def runResetCore (s : State) : Host.Outcome State Fault Refusal :=
  .next { s.dropAcc8.dropAcc16 with dec := .reset, session := .closed, result := .idle }

end Sys2Proof.Machine
end

