-- ==== Sys2Proof/Machine/Session.lean ====
section
/-! DEFINITION. The ConnectionSession of the environment, which gates CORE (R176 to R182). -/

namespace Sys2Proof.Machine

/-- Adds a name to a strictly rising list. -/
def insertName (c : Nat) : List Nat → List Nat
  | [] => [c]
  | x :: xs => if c < x then c :: x :: xs else if c = x then x :: xs else x :: insertName c xs

/-- Takes a name out of a list. -/
def removeName (c : Nat) (xs : List Nat) : List Nat := xs.filter (fun x => x != c)

/-- Does a consumer other than `c` hold the session? -/
def Session.heldByOther (x : Session) (c : Nat) : Bool := x.consumers.any (fun y => y != c)

/-- Does `connect(c, port)` succeed (R177, R179)? With no connection open, when opening succeeds; with one open, unless
another consumer holds it on a different port. Log entry 10. -/
def Session.admits (x : Session) (c port : Nat) (opens : Bool) : Bool :=
  match x.port with
  | none => opens
  | some p => p == port || !x.heldByOther c

/-- The session after a successful `connect`: opened if it was closed, bound to its first port, `c` registered (R177,
R179). -/
def Session.register (x : Session) (c port : Nat) : Session :=
  { port := some (x.port.getD port), consumers := insertName c x.consumers }

/-- The session after `connect` (R177): a failed call changes nothing. -/
def Session.connect (x : Session) (c port : Nat) (opens : Bool) : Session :=
  if x.admits c port opens then x.register c port else x

/-- The session after `disconnect` (R178): closed when the set becomes empty; removing a consumer that is not in it
changes nothing. -/
def Session.disconnect (x : Session) (c : Nat) : Session :=
  if (removeName c x.consumers).isEmpty then .closed
  else { x with consumers := removeName c x.consumers }

/-- `connect` (R177). -/
def runConnect (c port : Nat) (opens : Bool) (s : State) : Host.Outcome State Fault Refusal :=
  .next (State.return { s with session := s.session.connect c port opens } (.connected (s.session.admits c port opens)))

/-- `disconnect` (R178). Closing a session does not touch the decoder (R182). -/
def runDisconnect (c : Nat) (s : State) : Host.Outcome State Fault Refusal :=
  .next (State.return { s with session := s.session.disconnect c } .done)

end Sys2Proof.Machine
end

