-- ==== Sys2Proof/Machine/Run.lean ====
section
/-! DEFINITION. Running one input: an encoded instruction is decoded and executed, every other input has its own
meaning. -/

namespace Sys2Proof.Machine

/-- The refusal that stands for a code that is no instruction (R76, R61). -/
def refusalOf : Reject → Refusal
  | .reservedCommand op => .reservedCommand op
  | .notAPair first second => .notAPair first second

/-- Decode and execute. -/
def runCode (c : Code) (s : State) : Host.Outcome State Fault Refusal :=
  match Sys2Proof.decode c with
  | .ok i => exec i s
  | .error r => .refused (refusalOf r)

/-- One input, from the state in which it is no longer waiting. -/
def runInput (x : Input) (s : State) : Host.Outcome State Fault Refusal :=
  match x with
  | .code c => runCode c s
  | .deliver B => runDeliver B s
  | .checksum8 B => runChecksum8 B s
  | .checksum16 B => runChecksum16 B s
  | .sendMsg M => runSendMsg M s
  | .checkMsg F => runCheckMsg F s
  | .transmit W => runTransmit W s
  | .connect c port opens => runConnect c port opens s
  | .disconnect c => runDisconnect c s
  | .resetCore => runResetCore s

/-- Takes the next input and runs it; with none waiting, CORE waits and nothing changes (R187). Log entries 9, 15. -/
def runNext (s : State) : Host.Outcome State Fault Refusal :=
  match s.input with
  | [] => .next s
  | x :: rest => runInput x { s with input := rest }

/-- Formats whose instructions are gated by the session (R182): received bytes and pairs, and the four transaction
operations. -/
def gatedCode : Code → Bool
  | .cmd op _ => op == 0x40#8 || op == 0x41#8 || op == 0x42#8 || op == 0x43#8
  | .frame _ => true
  | .pair _ _ => true
  | .addr _ => false

/-- A session as `connect` leaves it, for a state that has none: port 0, consumer 0 (R177). -/
def Session.ensureOpen (x : Session) : Session := if x.isOpen then x else x.register 0 0

/-- The state in which code `c` is the next input, with what its delivery needs: an open session where the session
gates it (R190). Log entry 9. -/
def State.withCode (s : State) (c : Code) : State :=
  { s with
    input := .code c :: s.input
    session := if gatedCode c then s.session.ensureOpen else s.session }

/-- The state in which a word of the opcode table is the next input; a word of no table format is given as a
CMD code of its low byte. -/
def State.withTableWord (s : State) (nbits w : Nat) : State :=
  match Sys2Proof.tableCode nbits w with
  | some c => s.withCode c
  | none => s.withCode (.cmd (BitVec.ofNat 8 w) {})

end Sys2Proof.Machine
end

