-- ==== Sys2Proof/Machine/Step.lean ====
section
/-! DEFINITION. The step: one input is one step (R6, R52). -/

namespace Sys2Proof.Machine

/-- One step: the next input is taken and run to its result (R52, R57). -/
def step (s : State) : Host.Outcome State Fault Refusal := runNext s

/-- The state in which the next step runs the instruction of an opcode-table word: the word's code is put at the head
of the inputs, and where the session gates that code (R182) a session is open, as the bring-up of R190 has it. CORE
fetches no instructions (R25): a program is issued from outside, and this stands for its issue. Log entry 9. -/
def State.withFetchWord (s : State) (nbits w : Nat) : State := s.withTableWord nbits w

end Sys2Proof.Machine
end

