-- ==== Sys2Proof/Safety.lean ====
section
/-! DEFINITION. What counts as a good state and a safe run: the invariants of the decoder (R27) and of the session
(R176, R178), a legal configuration (R14, R15, R97), and runs that meet no model fault (R94). -/

namespace Sys2Proof

open Machine

/-- R27: whenever the decoder waits for a start, its buffer is empty. -/
def decoderInv (d : Decoder) : Prop := d.state = .waitingForStart → d.buf = []

/-- The session is open exactly when some consumer holds it (R176, R178), and its set is a strictly rising list. -/
def sessionInv (x : Session) : Prop :=
  (x.port.isSome = true ↔ x.consumers ≠ []) ∧ x.consumers.Pairwise (· < ·)

/-- The invariant every step keeps. -/
def stateInv (s : State) : Prop := decoderInv s.dec ∧ sessionInv s.session

/-- A legal configuration: both tuples meet `ZeroResidue` (R14, R15, R97, R188). -/
def legalCfg (c : Cfg) : Prop := ZeroResidue c.crc8 ∧ ZeroResidue c.crc16

/-- `n` steps from `s` record no model fault (R94): a run that records one proves nothing (R159). -/
def safeFor (n : Nat) (s : State) : Prop := ∀ t, core.run n s = .next t → t.unwrittenAcc = false

end Sys2Proof
end

