-- ==== Sys2Proof/Certificates/Slice0/Obligations.lean ====
section
/-! DEFINITION. The statements about the model, for the provers. Each docstring names the rules of spec/ it formalises.
A conclusion `exec i s = .next { s with … }` is result, completion and frame in one: every field that is not named is
unchanged. What an operation returns stands in `result` (log entry 7); the bus answers that stand ready are `replies`, and
where there is none the answer is free, with `freeIx` counting (log entries 5, 6); the bus calls made are `busLog` (log
entry 8). Where the spec leaves an accumulator `⊥`, what the hardware holds is free, with `accIx` counting (log entries 2,
25). -/

open Sys2Proof Sys2Proof.Machine

/-! ### ChecksumEngine -/

/-- R88: CRC8.RESET, from every state, `⊥` included; twice is the same as once; no other instruction leads out of `⊥`;
its example under CRC8_REF. -/
def Obligations.Crc8ResetLoadsInit : Prop :=
  ∀ (s : State) (a : Operands),
    decode (.cmd 0x10#8 a) = .ok .crc8Reset ∧
    exec .crc8Reset s = .next { s with acc8 := .val s.cfg.crc8.init, result := .done } ∧
    (∀ t : State, exec .crc8Reset s = .next t → exec .crc8Reset t = .next t) ∧
    (s.cfg.crc8 = Config.crc8Ref →
      exec .crc8Reset s = .next { s with acc8 := .val 0x00#8, result := .done }) ∧
    (∀ (i : Instr) (t : State), s.acc8.isBottom = true → exec i s = .next t → t.acc8.isBottom = false →
      i = .crc8Reset)

/-- R89: CRC8.UPDATE(B): the new raw accumulator as the running value, the empty string, the example. On `⊥` the fault
UnwrittenAcc is recorded (what else happens there: FaultExactlyOnUnwrittenAccumulator). -/
def Obligations.Crc8UpdateFoldsBytes : Prop :=
  (∀ (s : State) (B : ByteString),
    decode (.cmd 0x11#8 { bytes := B }) = .ok (.crc8Update B) ∧
    (∀ t : State, s.acc8.isBottom = true → exec (.crc8Update B) s = .next t → t.unwrittenAcc = true) ∧
    ∀ a : BitVec 8, s.acc8 = .val a →
      exec (.crc8Update B) s =
        .next { s with acc8 := .val (crcFold s.cfg.crc8 a B), result := .value8 (crcFold s.cfg.crc8 a B) } ∧
      exec (.crc8Update []) s = .next { s with result := .value8 a }) ∧
  crcFold Config.crc8Ref 0x00#8 [0x22#8] = 0xEE#8 ∧
  crcFold Config.crc8Ref 0xEE#8 [0x08#8] = 0xBC#8 ∧
  crcFold Config.crc8Ref 0xBC#8 [0x05#8] = 0x26#8

/-- R90: CRC8.FINALIZE: one byte, the accumulator is not written, a second FINALIZE returns the same, FINALIZE after
RESET is the checksum of the empty string, the example. On `⊥` the fault UnwrittenAcc is
recorded. -/
def Obligations.Crc8FinalizeReturnsOneByte : Prop :=
  (∀ (s : State) (ops : Operands),
    decode (.cmd 0x12#8 ops) = .ok .crc8Finalize ∧
    (∀ t : State, s.acc8.isBottom = true → exec .crc8Finalize s = .next t → t.unwrittenAcc = true) ∧
    ∀ a : BitVec 8, s.acc8 = .val a →
      let t : State := { s with result := .bytes [(if s.cfg.crc8.refout then a.reverse else a) ^^^ s.cfg.crc8.xorout] }
      exec .crc8Finalize s = .next t ∧ exec .crc8Finalize t = .next t ∧
      exec .crc8Finalize { s with acc8 := .val s.cfg.crc8.init } =
        .next { s with acc8 := .val s.cfg.crc8.init, result := .bytes [crc s.cfg.crc8 []] }) ∧
  crcOut Config.crc8Ref (crcFold Config.crc8Ref 0x00#8 [0x22#8, 0x08#8, 0x05#8]) = 0x26#8

/-- R91: CRC16.RESET, with the corner cases of R88. -/
def Obligations.Crc16ResetLoadsInit : Prop :=
  ∀ (s : State) (a : Operands),
    decode (.cmd 0x20#8 a) = .ok .crc16Reset ∧
    exec .crc16Reset s = .next { s with acc16 := .val s.cfg.crc16.init, result := .done } ∧
    (∀ t : State, exec .crc16Reset s = .next t → exec .crc16Reset t = .next t) ∧
    (s.cfg.crc16 = Config.crc16Ref →
      exec .crc16Reset s = .next { s with acc16 := .val 0xFFFF#16, result := .done }) ∧
    (∀ (i : Instr) (t : State), s.acc16.isBottom = true → exec i s = .next t → t.acc16.isBottom = false →
      i = .crc16Reset)

/-- R92: CRC16.UPDATE(B); on `⊥` the fault UnwrittenAcc is recorded. -/
def Obligations.Crc16UpdateFoldsBytes : Prop :=
  (∀ (s : State) (B : ByteString),
    decode (.cmd 0x21#8 { bytes := B }) = .ok (.crc16Update B) ∧
    (∀ t : State, s.acc16.isBottom = true → exec (.crc16Update B) s = .next t → t.unwrittenAcc = true) ∧
    ∀ a : BitVec 16, s.acc16 = .val a →
      exec (.crc16Update B) s =
        .next { s with acc16 := .val (crcFold s.cfg.crc16 a B), result := .value16 (crcFold s.cfg.crc16 a B) } ∧
      exec (.crc16Update []) s = .next { s with result := .value16 a }) ∧
  crcFold Config.crc16Ref 0xFFFF#16 [0x01#8] = 0xF1D1#16

/-- R93: CRC16.FINALIZE: two bytes, high byte first, the accumulator is not written; on `⊥` the fault
UnwrittenAcc is recorded. -/
def Obligations.Crc16FinalizeReturnsTwoBytes : Prop :=
  (∀ (s : State) (ops : Operands),
    decode (.cmd 0x22#8 ops) = .ok .crc16Finalize ∧
    (∀ t : State, s.acc16.isBottom = true → exec .crc16Finalize s = .next t → t.unwrittenAcc = true) ∧
    ∀ a : BitVec 16, s.acc16 = .val a →
      let v : BitVec 16 := (if s.cfg.crc16.refout then a.reverse else a) ^^^ s.cfg.crc16.xorout
      exec .crc16Finalize s = .next { s with result := .bytes [v.extractLsb' 8 8, v.extractLsb' 0 8] }) ∧
  ser (crcOut Config.crc16Ref (crcFold Config.crc16Ref 0xFFFF#16 [0x01#8, 0x10#8, 0x05#8])) = [0xA8#8, 0x7A#8]

/-- R94: the one model fault, UnwrittenAcc, is recorded exactly by UPDATE and FINALIZE of an accumulator that holds `⊥`;
once recorded it stays for the rest of the run; a composite operation or any other input that is no operation code
records none; after RESET neither UPDATE nor FINALIZE records it; and UPDATE and FINALIZE on `⊥` complete, computing from
whatever the register holds, with `⊥` not left. That the run goes on so is the model's reading of "the hardware would
compute from whatever value the accumulator holds" (log entry 2). -/
def Obligations.FaultExactlyOnUnwrittenAccumulator : Prop :=
  (∀ (i : Instr) (s t : State), exec i s = .next t →
    (t.unwrittenAcc = true ↔ s.unwrittenAcc = true ∨
      (s.acc8.isBottom = true ∧ ((∃ B, i = .crc8Update B) ∨ i = .crc8Finalize)) ∨
      (s.acc16.isBottom = true ∧ ((∃ B, i = .crc16Update B) ∨ i = .crc16Finalize)))) ∧
  (∀ (n : Nat) (s t : State), core.run n s = .next t → s.unwrittenAcc = true → t.unwrittenAcc = true) ∧
  (∀ (x : Input) (s t : State), (∀ c, x ≠ .code c) → runInput x s = .next t → t.unwrittenAcc = s.unwrittenAcc) ∧
  (∀ (s t : State) (B : ByteString), exec .crc8Reset s = .next t →
    (∃ u, exec (.crc8Update B) t = .next u ∧ u.unwrittenAcc = s.unwrittenAcc) ∧
    ∃ u, exec .crc8Finalize t = .next u ∧ u.unwrittenAcc = s.unwrittenAcc) ∧
  (∀ (s t : State) (B : ByteString), exec .crc16Reset s = .next t →
    (∃ u, exec (.crc16Update B) t = .next u ∧ u.unwrittenAcc = s.unwrittenAcc) ∧
    ∃ u, exec .crc16Finalize t = .next u ∧ u.unwrittenAcc = s.unwrittenAcc) ∧
  (∀ (s : State) (held : BitVec 8) (B : ByteString), s.acc8 = .bottom held →
    exec (.crc8Update B) s = .next { s with
      acc8 := .bottom (crcFold s.cfg.crc8 held B), unwrittenAcc := true,
      result := .value8 (crcFold s.cfg.crc8 held B) } ∧
    exec .crc8Finalize s = .next { s with
      unwrittenAcc := true, result := .bytes (ser (crcOut s.cfg.crc8 held)) }) ∧
  (∀ (s : State) (held : BitVec 16) (B : ByteString), s.acc16 = .bottom held →
    exec (.crc16Update B) s = .next { s with
      acc16 := .bottom (crcFold s.cfg.crc16 held B), unwrittenAcc := true,
      result := .value16 (crcFold s.cfg.crc16 held B) } ∧
    exec .crc16Finalize s = .next { s with
      unwrittenAcc := true, result := .bytes (ser (crcOut s.cfg.crc16 held)) })

/-- R86: reflection bit by bit, the output function, and serialisation most significant byte first. -/
def Obligations.CrcHelpersAreReflectionOutputAndSerialisation : Prop :=
  (∀ (w : Nat) (v : BitVec w) (i : Nat), i < w → (reflect v).getLsbD i = v.getLsbD (w - 1 - i)) ∧
  (∀ (w : Nat) (p : CrcParams w) (a : BitVec w) (i : Nat), i < w →
    (crcOut p a).getLsbD i = ((if p.refout then a.getLsbD (w - 1 - i) else a.getLsbD i) ^^ p.xorout.getLsbD i)) ∧
  (∀ v : BitVec 8, ser v = [v]) ∧
  (∀ v : BitVec 16, ∃ hi lo : Byte, ser v = [hi, lo] ∧ v.toNat = 256 * hi.toNat + lo.toNat)

/-- R87: the byte step, shift by shift, on the bits of the register; the fold, byte by byte. -/
def Obligations.CrcStepIsTheShiftRegister : Prop :=
  ∀ (w : Nat) (p : CrcParams w) (a : BitVec w) (b : Byte) (B : ByteString), 8 ≤ w →
    (∃ b' : Byte,
      (∀ i, i < 8 → b'.getLsbD i = if p.refin then b.getLsbD (7 - i) else b.getLsbD i) ∧
      crcStep p a b =
        Nat.iterate (fun x : BitVec w => if x.getLsbD (w - 1) then (x <<< 1) ^^^ p.poly else x <<< 1) 8
          (a ^^^ (b'.setWidth w <<< (w - 8)))) ∧
    crcFold p a [] = a ∧ crcFold p a (b :: B) = crcFold p (crcStep p a b) B

/-- R87's prose: the byte step is division by the polynomial `x^w + POLY` over GF(2): the new register and
`(register + byte * x^(w-8)) * x^8` differ by a multiple of `x^w + POLY`. -/
def Obligations.CrcStepIsPolynomialDivision : Prop :=
  ∀ (w : Nat) (p : CrcParams w) (a : BitVec w) (b : Byte), 8 ≤ w →
    let P : (n : Nat) → BitVec n → Polynomial (ZMod 2) :=
      fun n v => ∑ i ∈ Finset.range n, if v.getLsbD i then Polynomial.X ^ i else 0
    (Polynomial.X ^ w + P w p.poly) ∣
      (P w (crcStep p a b)
        - (P w a + P 8 (if p.refin then b.reverse else b) * Polynomial.X ^ (w - 8)) * Polynomial.X ^ 8)

/-- R96: the chunking law, and UPDATE(A); UPDATE(B) against UPDATE(A ++ B) on both engines. -/
def Obligations.UpdateChunkingLaw : Prop :=
  (∀ (w : Nat) (p : CrcParams w) (a : BitVec w) (A B : ByteString),
    crcFold p (crcFold p a A) B = crcFold p a (A ++ B)) ∧
  (∀ (s t : State) (A B : ByteString), exec (.crc8Update A) s = .next t →
    exec (.crc8Update B) t = exec (.crc8Update (A ++ B)) s) ∧
  (∀ (s t : State) (A B : ByteString), exec (.crc16Update A) s = .next t →
    exec (.crc16Update B) t = exec (.crc16Update (A ++ B)) s)

/-- R95: `CRC8(B)` and `CRC16(B)` are the sequence RESET; UPDATE(B); FINALIZE with the result read as a big-endian
number; `csum` is its wire form. What the pseudo-operation leaves in the accumulator is that of the sequence (log
entry 17, the model's choice of one step for three). -/
def Obligations.ChecksumPseudoOperationIsResetUpdateFinalize : Prop :=
  ∀ (s : State) (B : ByteString),
    (∃ t₁ t₂ t₃, exec .crc8Reset s = .next t₁ ∧ exec (.crc8Update B) t₁ = .next t₂ ∧
      exec .crc8Finalize t₂ = .next t₃ ∧ t₃.result = .bytes [crc s.cfg.crc8 B] ∧
      runInput (.checksum8 B) s = .next { t₃ with result := .value8 (crc s.cfg.crc8 B) }) ∧
    (∃ t₁ t₂ t₃, exec .crc16Reset s = .next t₁ ∧ exec (.crc16Update B) t₁ = .next t₂ ∧
      exec .crc16Finalize t₂ = .next t₃ ∧
      (∃ hi lo : Byte, t₃.result = .bytes [hi, lo] ∧ csum s.cfg.crc16 B = [hi, lo] ∧
        (crc s.cfg.crc16 B).toNat = 256 * hi.toNat + lo.toNat) ∧
      runInput (.checksum16 B) s = .next { t₃ with result := .value16 (crc s.cfg.crc16 B) })

/-- R98, the two sufficient conditions for `ZeroResidue` (R97): no output xor and no reflection at either width, or,
at 8 bits, no output xor and both reflections; any POLY, any INIT. -/
def Obligations.ZeroResidueSufficientConditions : Prop :=
  (∀ p : CrcParams 8, p.xorout = 0#8 → p.refin = false → p.refout = false → ZeroResidue p) ∧
  (∀ p : CrcParams 16, p.xorout = 0#16 → p.refin = false → p.refout = false → ZeroResidue p) ∧
  (∀ p : CrcParams 8, p.xorout = 0#8 → p.refin = true → p.refout = true → ZeroResidue p)

/-- R98, the tuples it names as failing, for POLY 0x07 and 0x1021 and INIT 0 or all ones. -/
def Obligations.ZeroResidueFailsForTheNamedTuples : Prop :=
  (∀ p : CrcParams 8, p.poly = 0x07#8 → (p.init = 0#8 ∨ p.init = 0xFF#8) →
    (p.xorout = 0x55#8 ∨ p.xorout = 0xFF#8 ∨ (p.xorout = 0#8 ∧ p.refin ≠ p.refout)) → ¬ ZeroResidue p) ∧
  (∀ p : CrcParams 16, p.poly = 0x1021#16 → (p.init = 0#16 ∨ p.init = 0xFFFF#16) →
    (p.xorout = 0x5555#16 ∨ p.xorout = 0xFFFF#16 ∨ (p.xorout = 0#16 ∧ (p.refin = true ∨ p.refout = true))) → ¬ ZeroResidue p)

/-- R99: under R98's first condition, with bit 0 of POLY set, flipping any single bit of a string whose CRC is zero
makes its CRC nonzero. -/
def Obligations.SingleBitFlipIsDetected : Prop :=
  ∀ (w : Nat) (p : CrcParams w) (X Y : ByteString) (b : Byte) (k : Nat),
    (w = 8 ∨ w = 16) → p.xorout = 0#w → p.refin = false → p.refout = false → p.poly.getLsbD 0 = true → k < 8 →
    crc p (X ++ b :: Y) = 0#w → crc p (X ++ (b ^^^ (1#8 <<< k)) :: Y) ≠ 0#w

/-! ### FrameCodec -/

/-- R101: ENCODE(P, C) from every state; only P ++ C matters; the example. -/
def Obligations.EncodeWritesTheFrame : Prop :=
  (∀ (s : State) (P C : ByteString),
    decode (.cmd 0x30#8 { bytes := P, extra := C }) = .ok (.encode P C) ∧
    exec (.encode P C) s =
      .next { s with result := .bytes ([0xF1#8] ++
        (P ++ C).flatMap (fun b => if b = 0xF1#8 ∨ b = 0xFA#8 ∨ b = 0xFF#8 then [0xFF#8, b] else [b]) ++ [0xFA#8]) } ∧
    exec (.encode P C) s = exec (.encode (P ++ C) []) s) ∧
  (∀ s : State, exec (.encode [] []) s = .next { s with result := .bytes [0xF1#8, 0xFA#8] }) ∧
  (∀ (s : State) (P : ByteString), (∀ b ∈ P, b = 0xF1#8 ∨ b = 0xFA#8 ∨ b = 0xFF#8) → ∃ W,
    exec (.encode P []) s = .next { s with result := .bytes W } ∧ W.length = 2 + 2 * P.length) ∧
  (∀ s : State, exec (.encode [0xF1#8, 0xFA#8, 0xFF#8] []) s =
    .next { s with result := .bytes [0xF1#8, 0xFF#8, 0xF1#8, 0xFF#8, 0xFA#8, 0xFF#8, 0xFF#8, 0xFA#8] })

/-- R102: the length of ENCODE's output, its make-up of delimiters and units (an unreserved byte, or FF and a reserved
byte), and its injectivity. -/
def Obligations.EncodeOutputShapeAndInjectivity : Prop :=
  (∀ P C : ByteString, (encodeFrame P C).length = 2 + (P ++ C).length + (P ++ C).countP
    (fun b => decide (b = 0xF1#8 ∨ b = 0xFA#8 ∨ b = 0xFF#8))) ∧
  (∀ P C : ByteString, ∃ units : List ByteString, encodeFrame P C = 0xF1#8 :: units.flatten ++ [0xFA#8] ∧
    ∀ u ∈ units, (∃ b : Byte, u = [b] ∧ b ≠ 0xF1#8 ∧ b ≠ 0xFA#8 ∧ b ≠ 0xFF#8) ∨
      (∃ b : Byte, u = [0xFF#8, b] ∧ (b = 0xF1#8 ∨ b = 0xFA#8 ∨ b = 0xFF#8))) ∧
  (∀ P C P' C' : ByteString, encodeFrame P C = encodeFrame P' C' → P ++ C = P' ++ C')

/-- R106, R107: the received bytes in WaitingForStart. -/
def Obligations.ReceivedByteInWaitingForStart : Prop :=
  ∀ s : State, s.session.port.isSome = true → s.dec.state = .waitingForStart →
    exec .startSym s = .next { s with dec := { state := .accumulating, buf := [] }, result := .events [] } ∧
    exec .endSym s = .next { s with result := .events [] } ∧
    exec .escapeSym s = .next { s with result := .events [] } ∧
    ∀ b : Byte, b ≠ 0xF1#8 → b ≠ 0xFA#8 → b ≠ 0xFF#8 → exec (.literal b) s = .next { s with result := .events [] }

/-- R108 to R111: the received bytes in Accumulating. -/
def Obligations.ReceivedByteInAccumulating : Prop :=
  ∀ s : State, s.session.port.isSome = true → s.dec.state = .accumulating →
    exec .escapeSym s = .next { s with dec := { state := .escaped, buf := s.dec.buf }, result := .events [] } ∧
    exec .startSym s = .next { s with
      dec := { state := .accumulating, buf := [] }, result := .events [.framingError .unexpectedStart] } ∧
    exec .endSym s = .next { s with
      dec := { state := .waitingForStart, buf := [] }, result := .events [.msg s.dec.buf] } ∧
    ∀ b : Byte, b ≠ 0xF1#8 → b ≠ 0xFA#8 → b ≠ 0xFF#8 →
      exec (.literal b) s = .next { s with
        dec := { state := .accumulating, buf := s.dec.buf ++ [b] }, result := .events [] }

/-- R112, R113: the received bytes in Escaped. -/
def Obligations.ReceivedByteInEscaped : Prop :=
  ∀ s : State, s.session.port.isSome = true → s.dec.state = .escaped →
    exec .startSym s = .next { s with
      dec := { state := .accumulating, buf := s.dec.buf ++ [0xF1#8] }, result := .events [] } ∧
    exec .endSym s = .next { s with
      dec := { state := .accumulating, buf := s.dec.buf ++ [0xFA#8] }, result := .events [] } ∧
    exec .escapeSym s = .next { s with
      dec := { state := .accumulating, buf := s.dec.buf ++ [0xFF#8] }, result := .events [] } ∧
    ∀ b : Byte, b ≠ 0xF1#8 → b ≠ 0xFA#8 → b ≠ 0xFF#8 →
      exec (.literal b) s = .next { s with
        dec := { state := .waitingForStart, buf := [] }, result := .events [.framingError .invalidEscape] }

/-- The escape pairs in every decoder state: ESCAPE (R106, R108, R112) and then the value. Inside a frame a pair puts
its value into the buffer (R61); outside one `[FF F1]` starts a frame (R79); after an ESCAPE the FF is the literal
(R112) and the value acts as a delimiter or a new ESCAPE. -/
def Obligations.EscapePairInEveryDecoderState : Prop :=
  ∀ s : State, s.session.port.isSome = true →
    (s.dec.state = .accumulating →
      exec .escStart s = .next { s with
        dec := { state := .accumulating, buf := s.dec.buf ++ [0xF1#8] }, result := .events [] } ∧
      exec .escEnd s = .next { s with
        dec := { state := .accumulating, buf := s.dec.buf ++ [0xFA#8] }, result := .events [] } ∧
      exec .escEsc s = .next { s with
        dec := { state := .accumulating, buf := s.dec.buf ++ [0xFF#8] }, result := .events [] }) ∧
    (s.dec.state = .waitingForStart →
      exec .escStart s = .next { s with dec := { state := .accumulating, buf := [] }, result := .events [] } ∧
      exec .escEnd s = .next { s with result := .events [] } ∧
      exec .escEsc s = .next { s with result := .events [] }) ∧
    (s.dec.state = .escaped →
      exec .escStart s = .next { s with
        dec := { state := .accumulating, buf := [] }, result := .events [.framingError .unexpectedStart] } ∧
      exec .escEnd s = .next { s with
        dec := { state := .waitingForStart, buf := [] }, result := .events [.msg (s.dec.buf ++ [0xFF#8])] } ∧
      exec .escEsc s = .next { s with
        dec := { state := .escaped, buf := s.dec.buf ++ [0xFF#8] }, result := .events [] })

/-- R182 (with D25): received bytes and pairs are delivered, and SENDMSG is issued, only while a session is open; DECODE
on bytes the host supplies, ENCODE and CHECKMSG are not gated. That a literal operand holding a reserved byte is refused first is the model's choice (log
entry 14). -/
def Obligations.ReceivedBytesNeedAnOpenSession : Prop :=
  ∀ s : State, s.session.port = none →
    (∀ i : Instr, i.wellFormed = true →
      (i = .startSym ∨ i = .endSym ∨ i = .escapeSym ∨ (∃ b, i = .literal b) ∨ i = .escStart ∨ i = .escEnd ∨
        i = .escEsc) → exec i s = .refused .notConnected) ∧
    (∀ b : Byte, (b = 0xF1#8 ∨ b = 0xFA#8 ∨ b = 0xFF#8) → exec (.literal b) s = .refused .operandRange) ∧
    (∀ B : ByteString, runInput (.deliver B) s = .refused .notConnected) ∧
    (∀ M : ByteString, runInput (.sendMsg M) s = .refused .notConnected) ∧
    (∀ B : ByteString, ∃ t, exec (.decode B) s = .next t) ∧
    (∀ P C : ByteString, ∃ t, exec (.encode P C) s = .next t) ∧
    (∀ F : ByteString, ∃ t, runInput (.checkMsg F) s = .next t)

/-- R105: DECODE consumes all of B, one transition a byte, in order, and returns the events in order; a single byte is
the transition of its row. While a session is open, a chunk of received bytes handed over is DECODE of it (R104, R182). -/
def Obligations.DecodeAppliesOneTransitionPerByte : Prop :=
  ∀ s : State,
    (∀ B, decode (.cmd 0x31#8 { bytes := B }) = .ok (.decode B)) ∧
    exec (.decode []) s = .next { s with result := .events [] } ∧
    (s.session.port.isSome = true → ∀ B, runInput (.deliver B) s = exec (.decode B) s) ∧
    ∀ (b : Byte) (B : ByteString), ∃ t u ev ev',
      exec (.decode [b]) s = .next t ∧ t.result = .events ev ∧
      exec (.decode B) t = .next u ∧ u.result = .events ev' ∧
      exec (.decode (b :: B)) s = .next { u with result := .events (ev ++ ev') } ∧
      (s.session.port.isSome = true → exec (decodeFrame b) s = exec (.decode [b]) s)

/-- R114: at most one event a byte, and only from R109, R110 and R113. -/
def Obligations.AtMostOneEventPerByte : Prop :=
  (∀ (d : Decoder) (b : Byte) (e : Event), e ∈ (dstep d b).2 → (dstep d b).2 = [e] ∧
    ((d.state = .accumulating ∧ b = 0xF1#8 ∧ e = .framingError .unexpectedStart) ∨
     (d.state = .accumulating ∧ b = 0xFA#8 ∧ e = .msg d.buf) ∨
     (d.state = .escaped ∧ b ≠ 0xF1#8 ∧ b ≠ 0xFA#8 ∧ b ≠ 0xFF#8 ∧ e = .framingError .invalidEscape))) ∧
  (∀ (s t : State) (B : ByteString) (ev : List Event), exec (.decode B) s = .next t → t.result = .events ev →
    ev.length ≤ B.length)

/-- R116: cutting the received bytes into two calls anywhere changes neither the decoder nor the events. -/
def Obligations.FragmentationIndependence : Prop :=
  ∀ (s : State) (A B : ByteString), ∃ t u v ev ev',
    exec (.decode A) s = .next t ∧ t.result = .events ev ∧
    exec (.decode B) t = .next u ∧ u.result = .events ev' ∧
    exec (.decode (A ++ B)) s = .next v ∧ v.dec = u.dec ∧ v.result = .events (ev ++ ev')

/-- R117: decoding what ENCODE wrote, from each of the three states of the decoder. -/
def Obligations.DecodeOfEncodeRoundTrip : Prop :=
  ∀ (s : State) (P C : ByteString),
    (s.dec.state = .waitingForStart →
      exec (.decode (encodeFrame P C)) s = .next { s with
        dec := { state := .waitingForStart, buf := [] }, result := .events [.msg (P ++ C)] }) ∧
    (s.dec.state = .accumulating →
      exec (.decode (encodeFrame P C)) s = .next { s with
        dec := { state := .waitingForStart, buf := [] },
        result := .events [.framingError .unexpectedStart, .msg (P ++ C)] }) ∧
    (s.dec.state = .escaped →
      exec (.decode (encodeFrame P C)) s = .next { s with
        dec := { state := .waitingForStart, buf := [] },
        result := .events [.msg (s.dec.buf ++ [0xF1#8] ++ P ++ C)] })

/-- R118: after an invalid escape in mid-frame the decoder recovers the next frame when the rest R of the abandoned
frame holds no F1; when it does hold one, a spurious message made of the tail comes out first. -/
def Obligations.ResynchronisationAfterInvalidEscape : Prop :=
  ∀ (s : State) (X R T P₂ : ByteString) (b : Byte),
    s.dec.state = .waitingForStart → b ≠ 0xF1#8 → b ≠ 0xFA#8 → b ≠ 0xFF#8 → 0xF1#8 ∉ R →
    (exec (.decode ([0xF1#8] ++ escaped X ++ [0xFF#8, b] ++ R ++ encodeFrame P₂ [])) s = .next { s with
      dec := { state := .waitingForStart, buf := [] },
      result := .events [.framingError .invalidEscape, .msg P₂] }) ∧
    (exec (.decode ([0xF1#8] ++ escaped X ++ [0xFF#8, b] ++ R ++ [0xF1#8] ++ escaped T ++ [0xFA#8] ++ encodeFrame P₂ [])) s =
      .next { s with
        dec := { state := .waitingForStart, buf := [] },
        result := .events [.framingError .invalidEscape, .msg T, .msg P₂] })

/-- R120, R123: SENDMSG while a session is open, by CFG.TRAILER16. -/
def Obligations.SendMsgFramesTheMessage : Prop :=
  ∀ (s : State) (M : ByteString), s.session.port.isSome = true →
    (s.cfg.trailer16 = true → ∃ W t, exec (.encode M (csum s.cfg.crc16 M)) s = .next t ∧ t.result = .bytes W ∧
      runInput (.sendMsg M) s = .next { s with
        acc16 := .bottom (Config.freeAcc16 s.accIx), accIx := s.accIx + 1, tx := s.tx ++ W, result := .bytes W }) ∧
    (s.cfg.trailer16 = false → ∃ W t, exec (.encode M []) s = .next t ∧ t.result = .bytes W ∧
      runInput (.sendMsg M) s = .next { s with tx := s.tx ++ W, result := .bytes W })

/-- R121, R122, R123: CHECKMSG. -/
def Obligations.CheckMsgVerifiesTheTrailer : Prop :=
  ∀ (s : State) (F : ByteString),
    (s.cfg.trailer16 = false → runInput (.checkMsg F) s = .next { s with result := .okMessage F }) ∧
    (s.cfg.trailer16 = true →
      (F.length < 2 → runInput (.checkMsg F) s = .next { s with
        acc16 := .bottom (Config.freeAcc16 s.accIx), accIx := s.accIx + 1, result := .err .checksum }) ∧
      (2 ≤ F.length → crc s.cfg.crc16 F ≠ 0#16 →
        runInput (.checkMsg F) s = .next { s with
          acc16 := .bottom (Config.freeAcc16 s.accIx), accIx := s.accIx + 1, result := .err .checksum }) ∧
      (∀ M c₁ c₀, F = M ++ [c₁, c₀] → crc s.cfg.crc16 F = 0#16 →
        runInput (.checkMsg F) s = .next { s with
          acc16 := .bottom (Config.freeAcc16 s.accIx), accIx := s.accIx + 1, result := .okMessage M }))

/-- R64, R97, R117, R120, R121 together: what SENDMSG put on TX, received by a decoder that waits for a start and then
checked, is the message again, whatever the trailer setting, when CFG.CRC16 is legal. -/
def Obligations.MessageSentIsMessageDelivered : Prop :=
  ∀ (s : State) (M : ByteString), ZeroResidue s.cfg.crc16 → s.session.port.isSome = true →
    s.dec.state = .waitingForStart →
    ∃ W F t u v, runInput (.sendMsg M) s = .next t ∧ t.tx = s.tx ++ W ∧
      runInput (.deliver W) t = .next u ∧ u.result = .events [.msg F] ∧
      runInput (.checkMsg F) u = .next v ∧ v.result = .okMessage M ∧ v.dec = { state := .waitingForStart, buf := [] }

/-! ### RegisterTransactionLayer -/

/-- R67: the addressing bytes, bit by bit and in numbers. That the row's own effect is to form the byte and to change
nothing else is the model's reading (log entry 12). -/
def Obligations.AddressingBytes : Prop :=
  ∀ (s : State) (dev : DevAddr), ∃ w r : Byte,
    exec (.addrW dev) s = .next { s with result := .bytes [w] } ∧
    exec (.addrR dev) s = .next { s with result := .bytes [r] } ∧
    w.toNat = 2 * dev.toNat ∧ r.toNat = 2 * dev.toNat + 1 ∧
    w.getLsbD 0 = false ∧ r.getLsbD 0 = true ∧
    (∀ k, k < 7 → w.getLsbD (k + 1) = dev.getLsbD k ∧ r.getLsbD (k + 1) = dev.getLsbD k) ∧
    decode (.addr w) = .ok (.addrW dev) ∧ decode (.addr r) = .ok (.addrR dev)

/-- R134: WRITE_REG with every answer of the bus: the one that stands ready (Ok or BusError), or a free one; the
checksum covers AW(dev), reg and the data; the example. -/
def Obligations.WriteRegSendsOneCheckedString : Prop :=
  (∀ (s : State) (dev : DevAddr) (reg : Byte) (data : ByteString), s.session.port.isSome = true →
    let c : Byte := crc s.cfg.crc8 ([BitVec.ofNat 8 (2 * dev.toNat), reg] ++ data)
    let call : BusCall := .write dev ([reg] ++ data ++ [c])
    let i : Instr := .writeReg dev.toNat reg.toNat data
    decode (.cmd 0x40#8 { dev := dev.toNat, reg := reg.toNat, bytes := data }) = .ok i ∧
    (∀ rs, s.replies = .busOk :: rs → exec i s = .next { s with
      replies := rs, busLog := s.busLog ++ [call],
      acc8 := .bottom (Config.freeAcc8 s.accIx), accIx := s.accIx + 1, result := .ok }) ∧
    (∀ rs, s.replies = .busFail :: rs → exec i s = .next { s with
      replies := rs, busLog := s.busLog ++ [call],
      acc8 := .bottom (Config.freeAcc8 s.accIx), accIx := s.accIx + 1, result := .err .bus }) ∧
    (s.replies = [] → ∃ res, (res = .ok ∨ res = .err .bus) ∧ exec i s = .next { s with
      freeIx := s.freeIx + 1, busLog := s.busLog ++ [call],
      acc8 := .bottom (Config.freeAcc8 s.accIx), accIx := s.accIx + 1, result := res })) ∧
  crc Config.crc8Ref [0x22#8, 0x08#8, 0x05#8] = 0x26#8 ∧ crc Config.crc8Ref [0x22#8, 0x08#8, 0x05#8, 0x26#8] = 0#8

/-- R65: the string a write puts on the bus, behind the address byte, has CRC zero when CFG.CRC8 is legal. -/
def Obligations.WriteRegWireHasZeroResidue : Prop :=
  ∀ (s t : State) (dev : DevAddr) (reg : Byte) (data : ByteString), ZeroResidue s.cfg.crc8 →
    exec (.writeReg dev.toNat reg.toNat data) s = .next t →
    ∃ c : Byte, t.busLog = s.busLog ++ [.write dev ([reg] ++ data ++ [c])] ∧
      crc s.cfg.crc8 ([BitVec.ofNat 8 (2 * dev.toNat), reg] ++ data ++ [c]) = 0#8

/-- R136, R137: READ_REG with every answer of the bus; the verification covers AW, reg, AR and all received bytes; no
data on an error; the example. -/
def Obligations.ReadRegVerifiesAllReceivedBytes : Prop :=
  (∀ (s : State) (dev : DevAddr) (reg : Byte) (length : Nat), s.session.port.isSome = true →
    let lead : ByteString := [BitVec.ofNat 8 (2 * dev.toNat), reg, BitVec.ofNat 8 (2 * dev.toNat + 1)]
    let call : BusCall := .read dev reg (length + 1)
    let i : Instr := .readReg dev.toNat reg.toNat length
    decode (.cmd 0x41#8 { dev := dev.toNat, reg := reg.toNat, count := length }) = .ok i ∧
    (∀ data c rs, data.length = length → s.replies = .busData (data ++ [c]) :: rs →
      crc s.cfg.crc8 (lead ++ data ++ [c]) = 0#8 → exec i s = .next { s with
        replies := rs, busLog := s.busLog ++ [call],
        acc8 := .bottom (Config.freeAcc8 s.accIx), accIx := s.accIx + 1, result := .okData data }) ∧
    (∀ rx rs, rx.length = length + 1 → s.replies = .busData rx :: rs →
      crc s.cfg.crc8 (lead ++ rx) ≠ 0#8 → exec i s = .next { s with
        replies := rs, busLog := s.busLog ++ [call],
        acc8 := .bottom (Config.freeAcc8 s.accIx), accIx := s.accIx + 1, result := .err .checksum }) ∧
    (∀ rs, s.replies = .busFail :: rs → exec i s = .next { s with
        replies := rs, busLog := s.busLog ++ [call],
        acc8 := .bottom (Config.freeAcc8 s.accIx), accIx := s.accIx + 1, result := .err .bus }) ∧
    (s.replies = [] → ∃ res, (res = .err .bus ∨ res = .err .checksum ∨ ∃ d, d.length = length ∧ res = .okData d) ∧
      exec i s = .next { s with
        freeIx := s.freeIx + 1, busLog := s.busLog ++ [call],
        acc8 := .bottom (Config.freeAcc8 s.accIx), accIx := s.accIx + 1, result := res })) ∧
  crc Config.crc8Ref [0x22#8, 0x08#8, 0x23#8, 0x05#8, 0x39#8] = 0#8 ∧ crc Config.crc8Ref [0x22#8, 0x08#8, 0x23#8, 0x05#8, 0x38#8] = 0x07#8

/-- R140 (with R131, R139): WRITE_MULTI: a request that is not well formed ends in ProtocolViolation with nothing done;
else one bus write of the interleaved blocks, the first checksum covering AW, firstReg and its segment, every later one
its own segment alone. -/
def Obligations.WriteMultiSendsInterleavedBlocks : Prop :=
  ∀ (s : State) (dev : DevAddr) (reg : Byte) (sizes : List Nat) (data : ByteString), s.session.port.isSome = true →
    let seg : Nat → ByteString := fun i => (data.drop (sizes.take i).sum).take (sizes.getD i 0)
    let lead : Nat → ByteString := fun i => if i = 0 then [BitVec.ofNat 8 (2 * dev.toNat), reg] else []
    let W : ByteString := [reg] ++ (List.range sizes.length).flatMap
      (fun i => seg i ++ [crc s.cfg.crc8 (lead i ++ seg i)])
    let i : Instr := .writeMulti dev.toNat reg.toNat sizes data
    decode (.cmd 0x42#8 { dev := dev.toNat, reg := reg.toNat, sizes := sizes, bytes := data }) = .ok i ∧
    ((sizes = [] ∨ sizes.sum ≠ data.length) → exec i s = .next { s with result := .err .protocolViolation }) ∧
    (sizes ≠ [] → sizes.sum = data.length →
      (∀ rs, s.replies = .busOk :: rs → exec i s = .next { s with
        replies := rs, busLog := s.busLog ++ [.write dev W],
        acc8 := .bottom (Config.freeAcc8 s.accIx), accIx := s.accIx + 1, result := .ok }) ∧
      (∀ rs, s.replies = .busFail :: rs → exec i s = .next { s with
        replies := rs, busLog := s.busLog ++ [.write dev W],
        acc8 := .bottom (Config.freeAcc8 s.accIx), accIx := s.accIx + 1, result := .err .bus }) ∧
      (s.replies = [] → ∃ res, (res = .ok ∨ res = .err .bus) ∧ exec i s = .next { s with
        freeIx := s.freeIx + 1, busLog := s.busLog ++ [.write dev W],
        acc8 := .bottom (Config.freeAcc8 s.accIx), accIx := s.accIx + 1, result := res }))

/-- R141: the length of the wire string of WRITE_MULTI, where block i stands, and the data it gives back. -/
def Obligations.WriteMultiWireLayout : Prop :=
  ∀ (p : CrcParams 8) (dev : DevAddr) (reg : Byte) (sizes : List Nat) (data : ByteString),
    sizes ≠ [] → sizes.sum = data.length →
    let W := writeMultiWire p dev reg sizes data
    let o : Nat → Nat := fun i => (sizes.take i).sum
    W.length = 1 + data.length + sizes.length ∧
    (∀ i, i < sizes.length → ∃ c : Byte,
      (W.drop (1 + o i + i)).take (sizes.getD i 0 + 1) = (data.drop (o i)).take (sizes.getD i 0) ++ [c]) ∧
    (List.range sizes.length).flatMap (fun i => (W.drop (1 + o i + i)).take (sizes.getD i 0)) = data

/-- R145 (with R131, R143, R144): READ_MULTI: a request that is not well formed ends in ProtocolViolation with nothing
done; else one bus read of `totalLength + k` bytes, and the data when every block verifies, ChecksumError when one does
not, BusError when the call fails. -/
def Obligations.ReadMultiVerifiesEveryBlock : Prop :=
  ∀ (s : State) (dev : DevAddr) (reg : Byte) (sizes : List Nat) (total : Nat), s.session.port.isSome = true →
    let lead : Nat → ByteString := fun i =>
      if i = 0 then [BitVec.ofNat 8 (2 * dev.toNat), reg, BitVec.ofNat 8 (2 * dev.toNat + 1)] else []
    let blk : ByteString → Nat → ByteString := fun rx i =>
      (rx.drop ((sizes.take i).sum + i)).take (sizes.getD i 0 + 1)
    let call : BusCall := .read dev reg (total + sizes.length)
    let i : Instr := .readMulti dev.toNat reg.toNat sizes total
    decode (.cmd 0x43#8 { dev := dev.toNat, reg := reg.toNat, sizes := sizes, count := total }) = .ok i ∧
    ((sizes = [] ∨ sizes.sum ≠ total) → exec i s = .next { s with result := .err .protocolViolation }) ∧
    (sizes ≠ [] → sizes.sum = total →
      (∀ rx rs, rx.length = total + sizes.length → s.replies = .busData rx :: rs →
        (∀ j, j < sizes.length → crc s.cfg.crc8 (lead j ++ blk rx j) = 0#8) → exec i s = .next { s with
          replies := rs, busLog := s.busLog ++ [call], acc8 := .bottom (Config.freeAcc8 s.accIx), accIx := s.accIx + 1,
          result := .okData ((List.range sizes.length).flatMap (fun j => (blk rx j).take (sizes.getD j 0))) }) ∧
      (∀ rx rs j, rx.length = total + sizes.length → s.replies = .busData rx :: rs → j < sizes.length →
        crc s.cfg.crc8 (lead j ++ blk rx j) ≠ 0#8 → exec i s = .next { s with
          replies := rs, busLog := s.busLog ++ [call],
          acc8 := .bottom (Config.freeAcc8 s.accIx), accIx := s.accIx + 1, result := .err .checksum }) ∧
      (∀ rs, s.replies = .busFail :: rs → exec i s = .next { s with
        replies := rs, busLog := s.busLog ++ [call],
        acc8 := .bottom (Config.freeAcc8 s.accIx), accIx := s.accIx + 1, result := .err .bus }) ∧
      (s.replies = [] → ∃ res, (res = .err .bus ∨ res = .err .checksum ∨ ∃ d, d.length = total ∧ res = .okData d) ∧
        exec i s = .next { s with
          freeIx := s.freeIx + 1, busLog := s.busLog ++ [call],
          acc8 := .bottom (Config.freeAcc8 s.accIx), accIx := s.accIx + 1, result := res }))

/-- An answer that does not belong to the call it meets is a BusFail: for a read answered with BusOk or with the wrong
number of bytes by D17, for a write answered with bytes by the model's choice (log entry 5). -/
def Obligations.UnexpectedBusAnswerIsBusError : Prop :=
  ∀ (s : State) (dev : DevAddr) (reg : Byte) (n : Nat) (sizes : List Nat) (data : ByteString) (r : BusReply)
    (rs : List BusReply), s.session.port.isSome = true → s.replies = r :: rs → sizes ≠ [] →
    let failed : BusCall → State := fun c =>
      { s with
        replies := rs, busLog := s.busLog ++ [c],
        acc8 := .bottom (Config.freeAcc8 s.accIx), accIx := s.accIx + 1, result := .err .bus }
    ((∃ rx, r = .busData rx) →
      exec (.writeReg dev.toNat reg.toNat data) s =
        .next (failed (.write dev (writeRegWire s.cfg.crc8 dev reg data))) ∧
      (sizes.sum = data.length → exec (.writeMulti dev.toNat reg.toNat sizes data) s =
        .next (failed (.write dev (writeMultiWire s.cfg.crc8 dev reg sizes data))))) ∧
    ((r = .busOk ∨ ∃ rx, r = .busData rx ∧ rx.length ≠ n + 1) →
      exec (.readReg dev.toNat reg.toNat n) s = .next (failed (.read dev reg (n + 1)))) ∧
    ((r = .busOk ∨ ∃ rx, r = .busData rx ∧ rx.length ≠ sizes.sum + sizes.length) →
      exec (.readMulti dev.toNat reg.toNat sizes sizes.sum) s =
        .next (failed (.read dev reg (sizes.sum + sizes.length))))

/-- R146 (with R49): READ_MULTI returns data only when all blocks verified, and then all `totalLength` bytes of it. -/
def Obligations.ReadMultiIsAllOrNothing : Prop :=
  ∀ (s t : State) (dev reg : Nat) (sizes : List Nat) (total : Nat),
    exec (.readMulti dev reg sizes total) s = .next t →
    (∃ out, t.result = .okData out ∧ out.length = total ∧ ∃ rx : ByteString, rx.length = total + sizes.length ∧
      s.nextReply = .busData rx ∧ ∀ j, j < sizes.length →
        crc s.cfg.crc8 ((if j = 0 then [BitVec.ofNat 8 (2 * dev), BitVec.ofNat 8 reg, BitVec.ofNat 8 (2 * dev + 1)] else [])
          ++ (rx.drop ((sizes.take j).sum + j)).take (sizes.getD j 0 + 1)) = 0#8) ∨
    (∃ e, t.result = .err e)

/-- R149: the single-register operations are the one-register cases of the multi-register ones. -/
def Obligations.SingleRegisterIsOneRegisterMulti : Prop :=
  ∀ (s : State) (dev reg : Nat),
    (∀ data : ByteString, exec (.writeReg dev reg data) s = exec (.writeMulti dev reg [data.length] data) s) ∧
    (∀ n : Nat, exec (.readReg dev reg n) s = exec (.readMulti dev reg [n] n) s)

/-- R148, R150: a transaction operation that ends in ProtocolViolation makes no bus call and keeps the accumulator;
every other one makes exactly one and leaves `⊥`. -/
def Obligations.TransactionMakesOneBusCallAndDropsTheAccumulator : Prop :=
  ∀ (i : Instr) (s t : State), exec i s = .next t →
    ((∃ d r b, i = .writeReg d r b) ∨ (∃ d r n, i = .readReg d r n) ∨ (∃ d r l b, i = .writeMulti d r l b) ∨
      (∃ d r l n, i = .readMulti d r l n)) →
    (t.result = .err .protocolViolation ∧ t.busLog = s.busLog ∧ t.acc8 = s.acc8) ∨
    (t.result ≠ .err .protocolViolation ∧ (∃ c, t.busLog = s.busLog ++ [c]) ∧
      t.acc8.isBottom = true)

/-- R168: what each error changes: the errors of results and the two framing errors. -/
def Obligations.ErrorsChangeExactlyWhatTheTableSays : Prop :=
  (∀ s : State, s.dec.state = .accumulating →
    exec (.decode [0xF1#8]) s = .next { s with
      dec := { state := .accumulating, buf := [] }, result := .events [.framingError .unexpectedStart] }) ∧
  (∀ (s : State) (b : Byte), s.dec.state = .escaped → b ≠ 0xF1#8 → b ≠ 0xFA#8 → b ≠ 0xFF#8 →
    exec (.decode [b]) s = .next { s with
      dec := { state := .waitingForStart, buf := [] }, result := .events [.framingError .invalidEscape] }) ∧
  (∀ (s t : State) (F : ByteString), runInput (.checkMsg F) s = .next t → t.result = .err .checksum →
    t = { s with acc16 := .bottom (Config.freeAcc16 s.accIx), accIx := s.accIx + 1, result := .err .checksum }) ∧
  (∀ (i : Instr) (s t : State) (e : ErrorClass), exec i s = .next t → t.result = .err e →
    (e = .protocolViolation → t = { s with result := .err e }) ∧
    (e = .checksum ∨ e = .bus → ∃ c, t = { s with
      acc8 := .bottom (Config.freeAcc8 s.accIx), accIx := s.accIx + 1,
      replies := t.replies, freeIx := t.freeIx, busLog := s.busLog ++ [c], result := .err e }))

/-- R160: which operation can give which outcome. The first four clauses are the table's `no` cells: what an error, an
event that reports one, SENDMSG and CHECKMSG can be. The rest are its `yes` cells, one each: some state and operands
produce the outcome. -/
def Obligations.OutcomesOfEachOperation : Prop :=
  (∀ (i : Instr) (s t : State) (e : ErrorClass), exec i s = .next t → t.result = .err e →
    (e = .checksum ∧ ((∃ d r n, i = .readReg d r n) ∨ ∃ d r l n, i = .readMulti d r l n)) ∨
    (e = .bus ∧ ((∃ d r b, i = .writeReg d r b) ∨ (∃ d r n, i = .readReg d r n) ∨ (∃ d r l b, i = .writeMulti d r l b) ∨
      ∃ d r l n, i = .readMulti d r l n)) ∨
    (e = .protocolViolation ∧ ((∃ d r l b, i = .writeMulti d r l b) ∨ ∃ d r l n, i = .readMulti d r l n))) ∧
  (∀ (i : Instr) (s t : State) (ev : List Event), exec i s = .next t → t.result = .events ev →
    (∃ B, i = .decode B) ∨ i = .startSym ∨ i = .endSym ∨ i = .escapeSym ∨ (∃ b, i = .literal b) ∨ i = .escStart ∨
      i = .escEnd ∨ i = .escEsc) ∧
  (∀ (s t : State) (M : ByteString), runInput (.sendMsg M) s = .next t → ∃ W, t.result = .bytes W) ∧
  (∀ (s t : State) (F : ByteString), runInput (.checkMsg F) s = .next t →
    t.result = .err .checksum ∨ ∃ M, t.result = .okMessage M) ∧
  (∀ c : FramingCause, ∃ s t B ev, exec (.decode B) s = .next t ∧ t.result = .events ev ∧ .framingError c ∈ ev) ∧
  (∃ s t F, runInput (.checkMsg F) s = .next t ∧ t.result = .err .checksum) ∧
  (∃ s t d r b, exec (.writeReg d r b) s = .next t ∧ t.result = .err .bus) ∧
  (∀ e ∈ [ErrorClass.checksum, .bus], ∃ s t d r n, exec (.readReg d r n) s = .next t ∧ t.result = .err e) ∧
  (∀ e ∈ [ErrorClass.bus, .protocolViolation], ∃ s t d r l b,
    exec (.writeMulti d r l b) s = .next t ∧ t.result = .err e) ∧
  (∀ e ∈ [ErrorClass.checksum, .bus, .protocolViolation], ∃ s t d r l n,
    exec (.readMulti d r l n) s = .next t ∧ t.result = .err e)

/-- R132, R151, R165: the order of the conditions of a transaction operation: OperandRange, NotConnected,
ProtocolViolation (before any bus activity, whatever the bus would answer). -/
def Obligations.OrderOfConditionsInATransaction : Prop :=
  ∀ (s : State) (dev reg n : Nat) (sizes : List Nat) (data : ByteString),
    let ops : List Instr :=
      [.writeReg dev reg data, .readReg dev reg n, .writeMulti dev reg sizes data, .readMulti dev reg sizes n]
    ((128 ≤ dev ∨ 256 ≤ reg) → ∀ i ∈ ops, exec i s = .refused .operandRange) ∧
    (dev < 128 → reg < 256 → s.session.port = none → ∀ i ∈ ops, exec i s = .refused .notConnected) ∧
    (dev < 128 → reg < 256 → s.session.port.isSome = true →
      (∀ i ∈ ops, ∃ t, exec i s = .next t) ∧
      ((sizes = [] ∨ sizes.sum ≠ data.length) →
        exec (.writeMulti dev reg sizes data) s = .next { s with result := .err .protocolViolation }) ∧
      ((sizes = [] ∨ sizes.sum ≠ n) →
        exec (.readMulti dev reg sizes n) s = .next { s with result := .err .protocolViolation }))

/-- R152, R70, R66 and MA's split and join (95_test_vectors.md E2): a device that answers a read with each register's
data and a checksum of the same coverage is read back exactly, when CFG.CRC8 is legal. -/
def Obligations.ReadBackFromACorrectDevice : Prop :=
  ∀ (s : State) (dev : DevAddr) (reg : Byte) (sizes : List Nat) (data : ByteString) (rs : List BusReply),
    ZeroResidue s.cfg.crc8 → s.session.port.isSome = true → sizes ≠ [] → sizes.sum = data.length →
    let seg : Nat → ByteString := fun i => (data.drop (sizes.take i).sum).take (sizes.getD i 0)
    let lead : Nat → ByteString := fun i =>
      if i = 0 then [BitVec.ofNat 8 (2 * dev.toNat), reg, BitVec.ofNat 8 (2 * dev.toNat + 1)] else []
    let rx : ByteString := (List.range sizes.length).flatMap (fun i => seg i ++ [crc s.cfg.crc8 (lead i ++ seg i)])
    s.replies = .busData rx :: rs →
    ∃ t, exec (.readMulti dev.toNat reg.toNat sizes data.length) s = .next t ∧ t.result = .okData data

/-! ### Session, reset, whole machine -/

/-- R177, R179: connect. That a sole holder who names another port is registered on the port the connection is bound to
(last clause) is the model's reading (log entry 10). -/
def Obligations.ConnectRegistersTheConsumer : Prop :=
  ∀ (s : State) (c port : Nat), sessionInv s.session →
    (s.session.port = none → runInput (.connect c port false) s = .next { s with result := .connected false }) ∧
    (s.session.port = none → runInput (.connect c port true) s = .next { s with
      session := { port := some port, consumers := [c] }, result := .connected true }) ∧
    (∀ opens, s.session.port = some port → ∃ t, runInput (.connect c port opens) s = .next t ∧
      t = { s with session := { port := some port, consumers := t.session.consumers }, result := .connected true } ∧
      ∀ x, x ∈ t.session.consumers ↔ x = c ∨ x ∈ s.session.consumers) ∧
    (∀ opens p, s.session.port = some p → p ≠ port → (∃ x ∈ s.session.consumers, x ≠ c) →
      runInput (.connect c port opens) s = .next { s with result := .connected false }) ∧
    (∀ opens p, s.session.port = some p → p ≠ port → (∀ x ∈ s.session.consumers, x = c) →
      runInput (.connect c port opens) s = .next { s with
        session := { port := some p, consumers := [c] }, result := .connected true })

/-- R178, R180, R182: disconnect removes the consumer, closes the connection exactly when the set becomes empty, and
leaves the decoder as it is; a consumer that is not in the set changes nothing. -/
def Obligations.DisconnectReleasesTheConsumer : Prop :=
  ∀ (s : State) (c : Nat), sessionInv s.session →
    (∃ t, runInput (.disconnect c) s = .next t ∧
      t = { s with session := t.session, result := .done } ∧
      (∀ x, x ∈ t.session.consumers ↔ x ≠ c ∧ x ∈ s.session.consumers) ∧
      (t.session.port = if ∃ x ∈ s.session.consumers, x ≠ c then s.session.port else none)) ∧
    (c ∉ s.session.consumers → runInput (.disconnect c) s = .next { s with result := .done })

/-- R34, R35, and of R36 the closed session: the values reset leaves. -/
def Obligations.ResetValues : Prop :=
  State.reset.dec.state = .waitingForStart ∧ State.reset.dec.buf = [] ∧
  State.reset.acc8.isBottom = true ∧ State.reset.acc16.isBottom = true ∧
  State.reset.session.port = none ∧ State.reset.session.consumers = []

/-- R185 (with R176): RESET_CORE from every state, both accumulators `⊥` over new free values. That it leaves the queues and the outputs of the model's own fields
and forgets the last result is the model's choice (log entry 11). -/
def Obligations.ResetCoreEffect : Prop :=
  ∀ s : State, runInput .resetCore s = .next { s with
    dec := { state := .waitingForStart, buf := [] }, acc8 := .bottom (Config.freeAcc8 s.accIx),
    acc16 := .bottom (Config.freeAcc16 (s.accIx + 1)), accIx := s.accIx + 2,
    session := { port := none, consumers := [] }, result := .idle }

/-- The step runs the decoded instruction (R6, R52): when the next input is a code that decodes to `i`, the step is
`exec i` from the state in which that input is no longer waiting. The list of inputs is the model's (log entry 9). -/
def Obligations.StepRunsTheDecodedInstruction : Prop :=
  ∀ (s : State) (c : Code) (rest : List Input) (i : Instr), s.input = .code c :: rest → decode c = .ok i →
    step s = exec i { s with input := rest }

/-- The state that has a table word as its next input runs that word's instruction in its next step, and differs from
the given state in nothing but the session, which is opened where it was closed (log entry 9, the model's choice). -/
def Obligations.FetchWordRunsTheTableInstruction : Prop :=
  ∀ (s : State) (nbits w : Nat) (i : Instr), decodeTableWord nbits w = some i →
    ∃ x : Session, step (s.withFetchWord nbits w) = exec i { s with session := x } ∧
      (x = s.session ∨ (s.session.port = none ∧ x.port.isSome = true))

/-- With nothing issued nothing runs by itself (R187); every input is run once (R52). The list of inputs and the idle step
are the model's (log entries 9, 15). -/
def Obligations.StepTakesOneInput : Prop :=
  (∀ s : State, s.input = [] → step s = .next s) ∧
  (∀ (s t : State) (x : Input) (rest : List Input), s.input = x :: rest → step s = .next t → t.input = rest)

/-- Words written out from the spec's encodings (R61, R62, R67, R74), and a reserved code (R76). -/
def Obligations.WordsDecodeToTheirRows : Prop :=
  decode (.cmd 0x12#8 {}) = .ok .crc8Finalize ∧
  decode (.cmd 0x22#8 {}) = .ok .crc16Finalize ∧
  decode (.cmd 0x41#8 { dev := 0x11, reg := 0x08, count := 1 }) = .ok (.readReg 0x11 0x08 1) ∧
  decode (.frame 0xFA#8) = .ok .endSym ∧ decode (.frame 0xF2#8) = .ok (.literal 0xF2#8) ∧
  decode (.pair 0xFF#8 0xF1#8) = .ok .escStart ∧
  decode (.addr 0x22#8) = .ok (.addrW 0x11#7) ∧ decode (.addr 0x23#8) = .ok (.addrR 0x11#7) ∧
  decode (.cmd 0x13#8 {}) = .error (.reservedCommand 0x13#8)

/-- R76: every operation code outside the table of R74 is refused. -/
def Obligations.ReservedCommandsAreRefused : Prop :=
  ∀ (s : State) (op : Byte) (a : Operands),
    op ∉ ([0x10#8, 0x11#8, 0x12#8, 0x20#8, 0x21#8, 0x22#8, 0x30#8, 0x31#8, 0x40#8, 0x41#8, 0x42#8, 0x43#8] : List Byte) →
    runInput (.code (.cmd op a)) s = .refused (.reservedCommand op)

/-- Decoding the code of a well-formed instruction gives the instruction back, every operand at every value; and the
code of whatever a FRAME, PAIR or ADDR code decodes to is that code again. -/
def Obligations.DecodeAndEncodeAgree : Prop :=
  (∀ i : Instr, i.wellFormed = true → decode (encode i) = .ok i) ∧
  (∀ (c : Code) (i : Instr), (∀ op a, c ≠ .cmd op a) → decode c = .ok i → encode i = c ∧ i.wellFormed = true)

/-- R27 and R176 to R178 as one invariant: every step keeps it, from every state that has it. -/
def Obligations.EveryStepKeepsTheInvariant : Prop :=
  ∀ s t : State, stateInv s → step s = .next t → stateInv t

/-- The invariant holds at reset. -/
def Obligations.ResetHasTheInvariant : Prop := stateInv State.reset

/-- R16: no operation, and no other input, writes a configuration field, and at reset it holds the constants. That it
stands in State at all is the model's choice (log entry 1). -/
def Obligations.ConfigurationNeverChanges : Prop :=
  State.reset.cfg = { crc8 := Config.crc8, crc16 := Config.crc16, trailer16 := Config.trailer16 } ∧
  (∀ (i : Instr) (s t : State), exec i s = .next t → t.cfg = s.cfg) ∧
  (∀ s t : State, step s = .next t → t.cfg = s.cfg)

/-- R28, R170: nothing about a past result or error is kept: an operation's outcome does not depend on the result of
the one before it, nor on what is on TX or was on the bus before. -/
def Obligations.PastResultsDoNotMatter : Prop :=
  ∀ (i : Instr) (s : State) (r : Result) (tx : ByteString) (log : List BusCall),
    (exec i { s with result := r } = exec i s) ∧
    (∀ t, exec i s = .next t → ∃ t', exec i { s with tx := tx, busLog := log } = .next t' ∧
      t'.result = t.result ∧ t'.dec = t.dec ∧ t'.acc8 = t.acc8 ∧ t'.acc16 = t.acc16)

/-- The frame of every instruction (R13's "written by" column, R42): the operations of one engine write its accumulator
only, ENCODE and the addressing bytes write nothing, received bytes and DECODE write the decoder only, transactions
write `crc8.acc` and the bus only. -/
def Obligations.EveryInstructionsFrame : Prop :=
  ∀ (i : Instr) (s t : State), exec i s = .next t →
    match i with
    | .crc8Reset => t = { s with acc8 := t.acc8, result := t.result }
    | .crc16Reset => t = { s with acc16 := t.acc16, result := t.result }
    | .crc8Update _ => t = { s with acc8 := t.acc8, unwrittenAcc := s.unwrittenAcc || s.acc8.isBottom, result := t.result }
    | .crc16Update _ => t = { s with acc16 := t.acc16, unwrittenAcc := s.unwrittenAcc || s.acc16.isBottom, result := t.result }
    | .crc8Finalize => t = { s with unwrittenAcc := s.unwrittenAcc || s.acc8.isBottom, result := t.result }
    | .crc16Finalize => t = { s with unwrittenAcc := s.unwrittenAcc || s.acc16.isBottom, result := t.result }
    | .encode _ _ | .addrW _ | .addrR _ => t = { s with result := t.result }
    | .decode _ | .startSym | .endSym | .escapeSym | .literal _ | .escStart | .escEnd | .escEsc =>
        t = { s with dec := t.dec, result := t.result }
    | .writeReg _ _ _ | .readReg _ _ _ | .writeMulti _ _ _ _ | .readMulti _ _ _ _ =>
        t = { s with
          acc8 := t.acc8, accIx := t.accIx, replies := t.replies, freeIx := t.freeIx, busLog := t.busLog, result := t.result }
end

