-- ==== Sys2Proof/Laws/State.lean ====
section
/-! SUPPORT. One lemma per field per update of the state, so that no later proof unfolds a record update. -/

namespace Sys2Proof.Machine

@[simp] theorem State.return_cfg (s : State) (r : Result) : (s.return r).cfg = s.cfg := rfl
@[simp] theorem State.return_acc8 (s : State) (r : Result) : (s.return r).acc8 = s.acc8 := rfl
@[simp] theorem State.return_acc16 (s : State) (r : Result) : (s.return r).acc16 = s.acc16 := rfl
@[simp] theorem State.return_dec (s : State) (r : Result) : (s.return r).dec = s.dec := rfl
@[simp] theorem State.return_session (s : State) (r : Result) : (s.return r).session = s.session := rfl
@[simp] theorem State.return_input (s : State) (r : Result) : (s.return r).input = s.input := rfl
@[simp] theorem State.return_replies (s : State) (r : Result) : (s.return r).replies = s.replies := rfl
@[simp] theorem State.return_freeIx (s : State) (r : Result) : (s.return r).freeIx = s.freeIx := rfl
@[simp] theorem State.return_accIx (s : State) (r : Result) : (s.return r).accIx = s.accIx := rfl
@[simp] theorem State.return_unwrittenAcc (s : State) (r : Result) : (s.return r).unwrittenAcc = s.unwrittenAcc := rfl
@[simp] theorem State.return_busLog (s : State) (r : Result) : (s.return r).busLog = s.busLog := rfl
@[simp] theorem State.return_tx (s : State) (r : Result) : (s.return r).tx = s.tx := rfl
@[simp] theorem State.return_result (s : State) (r : Result) : (s.return r).result = r := rfl

@[simp] theorem State.raise_cfg (s : State) (e : ErrorClass) : (s.raise e).cfg = s.cfg := rfl
@[simp] theorem State.raise_acc8 (s : State) (e : ErrorClass) : (s.raise e).acc8 = s.acc8 := rfl
@[simp] theorem State.raise_acc16 (s : State) (e : ErrorClass) : (s.raise e).acc16 = s.acc16 := rfl
@[simp] theorem State.raise_dec (s : State) (e : ErrorClass) : (s.raise e).dec = s.dec := rfl
@[simp] theorem State.raise_session (s : State) (e : ErrorClass) : (s.raise e).session = s.session := rfl
@[simp] theorem State.raise_input (s : State) (e : ErrorClass) : (s.raise e).input = s.input := rfl
@[simp] theorem State.raise_replies (s : State) (e : ErrorClass) : (s.raise e).replies = s.replies := rfl
@[simp] theorem State.raise_freeIx (s : State) (e : ErrorClass) : (s.raise e).freeIx = s.freeIx := rfl
@[simp] theorem State.raise_accIx (s : State) (e : ErrorClass) : (s.raise e).accIx = s.accIx := rfl
@[simp] theorem State.raise_unwrittenAcc (s : State) (e : ErrorClass) : (s.raise e).unwrittenAcc = s.unwrittenAcc := rfl
@[simp] theorem State.raise_busLog (s : State) (e : ErrorClass) : (s.raise e).busLog = s.busLog := rfl
@[simp] theorem State.raise_tx (s : State) (e : ErrorClass) : (s.raise e).tx = s.tx := rfl
@[simp] theorem State.raise_result (s : State) (e : ErrorClass) : (s.raise e).result = .err e := rfl

@[simp] theorem State.dropAcc8_cfg (s : State) : s.dropAcc8.cfg = s.cfg := rfl
@[simp] theorem State.dropAcc8_acc8 (s : State) : s.dropAcc8.acc8 = .bottom (Config.freeAcc8 s.accIx) := rfl
@[simp] theorem State.dropAcc8_acc16 (s : State) : s.dropAcc8.acc16 = s.acc16 := rfl
@[simp] theorem State.dropAcc8_dec (s : State) : s.dropAcc8.dec = s.dec := rfl
@[simp] theorem State.dropAcc8_session (s : State) : s.dropAcc8.session = s.session := rfl
@[simp] theorem State.dropAcc8_input (s : State) : s.dropAcc8.input = s.input := rfl
@[simp] theorem State.dropAcc8_replies (s : State) : s.dropAcc8.replies = s.replies := rfl
@[simp] theorem State.dropAcc8_freeIx (s : State) : s.dropAcc8.freeIx = s.freeIx := rfl
@[simp] theorem State.dropAcc8_accIx (s : State) : s.dropAcc8.accIx = s.accIx + 1 := rfl
@[simp] theorem State.dropAcc8_unwrittenAcc (s : State) : s.dropAcc8.unwrittenAcc = s.unwrittenAcc := rfl
@[simp] theorem State.dropAcc8_busLog (s : State) : s.dropAcc8.busLog = s.busLog := rfl
@[simp] theorem State.dropAcc8_tx (s : State) : s.dropAcc8.tx = s.tx := rfl
@[simp] theorem State.dropAcc8_result (s : State) : s.dropAcc8.result = s.result := rfl

@[simp] theorem State.dropAcc16_cfg (s : State) : s.dropAcc16.cfg = s.cfg := rfl
@[simp] theorem State.dropAcc16_acc8 (s : State) : s.dropAcc16.acc8 = s.acc8 := rfl
@[simp] theorem State.dropAcc16_acc16 (s : State) : s.dropAcc16.acc16 = .bottom (Config.freeAcc16 s.accIx) := rfl
@[simp] theorem State.dropAcc16_dec (s : State) : s.dropAcc16.dec = s.dec := rfl
@[simp] theorem State.dropAcc16_session (s : State) : s.dropAcc16.session = s.session := rfl
@[simp] theorem State.dropAcc16_input (s : State) : s.dropAcc16.input = s.input := rfl
@[simp] theorem State.dropAcc16_replies (s : State) : s.dropAcc16.replies = s.replies := rfl
@[simp] theorem State.dropAcc16_freeIx (s : State) : s.dropAcc16.freeIx = s.freeIx := rfl
@[simp] theorem State.dropAcc16_accIx (s : State) : s.dropAcc16.accIx = s.accIx + 1 := rfl
@[simp] theorem State.dropAcc16_unwrittenAcc (s : State) : s.dropAcc16.unwrittenAcc = s.unwrittenAcc := rfl
@[simp] theorem State.dropAcc16_busLog (s : State) : s.dropAcc16.busLog = s.busLog := rfl
@[simp] theorem State.dropAcc16_tx (s : State) : s.dropAcc16.tx = s.tx := rfl
@[simp] theorem State.dropAcc16_result (s : State) : s.dropAcc16.result = s.result := rfl

@[simp] theorem State.recordUse_cfg (s : State) (b : Bool) : (s.recordUse b).cfg = s.cfg := rfl
@[simp] theorem State.recordUse_acc8 (s : State) (b : Bool) : (s.recordUse b).acc8 = s.acc8 := rfl
@[simp] theorem State.recordUse_acc16 (s : State) (b : Bool) : (s.recordUse b).acc16 = s.acc16 := rfl
@[simp] theorem State.recordUse_dec (s : State) (b : Bool) : (s.recordUse b).dec = s.dec := rfl
@[simp] theorem State.recordUse_session (s : State) (b : Bool) : (s.recordUse b).session = s.session := rfl
@[simp] theorem State.recordUse_input (s : State) (b : Bool) : (s.recordUse b).input = s.input := rfl
@[simp] theorem State.recordUse_replies (s : State) (b : Bool) : (s.recordUse b).replies = s.replies := rfl
@[simp] theorem State.recordUse_freeIx (s : State) (b : Bool) : (s.recordUse b).freeIx = s.freeIx := rfl
@[simp] theorem State.recordUse_accIx (s : State) (b : Bool) : (s.recordUse b).accIx = s.accIx := rfl
@[simp] theorem State.recordUse_busLog (s : State) (b : Bool) : (s.recordUse b).busLog = s.busLog := rfl
@[simp] theorem State.recordUse_tx (s : State) (b : Bool) : (s.recordUse b).tx = s.tx := rfl
@[simp] theorem State.recordUse_result (s : State) (b : Bool) : (s.recordUse b).result = s.result := rfl
@[simp] theorem State.recordUse_unwrittenAcc (s : State) (b : Bool) :
    (s.recordUse b).unwrittenAcc = (s.unwrittenAcc || b) := rfl
/-- Using an accumulator that holds a value records nothing. -/
@[simp] theorem State.recordUse_false (s : State) : s.recordUse false = s := by simp [State.recordUse]

@[simp] theorem Acc.held_bottom {w : Nat} (h : BitVec w) : (Acc.bottom h).held = h := rfl
@[simp] theorem Acc.held_val {w : Nat} (v : BitVec w) : (Acc.val v).held = v := rfl
@[simp] theorem Acc.isBottom_bottom {w : Nat} (h : BitVec w) : (Acc.bottom h).isBottom = true := rfl
@[simp] theorem Acc.isBottom_val {w : Nat} (v : BitVec w) : (Acc.val v).isBottom = false := rfl
@[simp] theorem Acc.fold_bottom {w : Nat} (p : CrcParams w) (B : ByteString) (h : BitVec w) :
    Acc.fold p B (.bottom h) = .bottom (crcFold p h B) := rfl
@[simp] theorem Acc.fold_val {w : Nat} (p : CrcParams w) (B : ByteString) (v : BitVec w) :
    Acc.fold p B (.val v) = .val (crcFold p v B) := rfl
/-- Folding neither enters nor leaves `⊥`, and folds what the register holds. -/
@[simp] theorem Acc.fold_isBottom {w : Nat} (p : CrcParams w) (B : ByteString) (a : Acc w) :
    (a.fold p B).isBottom = a.isBottom := by cases a <;> rfl
@[simp] theorem Acc.fold_held {w : Nat} (p : CrcParams w) (B : ByteString) (a : Acc w) :
    (a.fold p B).held = crcFold p a.held B := by cases a <;> rfl
theorem Acc.isBottom_iff {w : Nat} (a : Acc w) : a.isBottom = true ↔ ∃ h, a = .bottom h := by
  cases a <;> simp

@[simp] theorem State.receive_cfg (s : State) (B : ByteString) : (s.receive B).cfg = s.cfg := rfl
@[simp] theorem State.receive_acc8 (s : State) (B : ByteString) : (s.receive B).acc8 = s.acc8 := rfl
@[simp] theorem State.receive_acc16 (s : State) (B : ByteString) : (s.receive B).acc16 = s.acc16 := rfl
@[simp] theorem State.receive_dec (s : State) (B : ByteString) : (s.receive B).dec = (decodeBytes s.dec B).1 := rfl
@[simp] theorem State.receive_session (s : State) (B : ByteString) : (s.receive B).session = s.session := rfl
@[simp] theorem State.receive_input (s : State) (B : ByteString) : (s.receive B).input = s.input := rfl
@[simp] theorem State.receive_replies (s : State) (B : ByteString) : (s.receive B).replies = s.replies := rfl
@[simp] theorem State.receive_freeIx (s : State) (B : ByteString) : (s.receive B).freeIx = s.freeIx := rfl
@[simp] theorem State.receive_accIx (s : State) (B : ByteString) : (s.receive B).accIx = s.accIx := rfl
@[simp] theorem State.receive_unwrittenAcc (s : State) (B : ByteString) : (s.receive B).unwrittenAcc = s.unwrittenAcc := rfl
@[simp] theorem State.receive_busLog (s : State) (B : ByteString) : (s.receive B).busLog = s.busLog := rfl
@[simp] theorem State.receive_tx (s : State) (B : ByteString) : (s.receive B).tx = s.tx := rfl
@[simp] theorem State.receive_result (s : State) (B : ByteString) : (s.receive B).result = .events (decodeBytes s.dec B).2 := rfl

@[simp] theorem State.popReply_cfg (s : State) : s.popReply.cfg = s.cfg := by
  unfold State.popReply; split <;> rfl
@[simp] theorem State.popReply_acc8 (s : State) : s.popReply.acc8 = s.acc8 := by
  unfold State.popReply; split <;> rfl
@[simp] theorem State.popReply_acc16 (s : State) : s.popReply.acc16 = s.acc16 := by
  unfold State.popReply; split <;> rfl
@[simp] theorem State.popReply_dec (s : State) : s.popReply.dec = s.dec := by
  unfold State.popReply; split <;> rfl
@[simp] theorem State.popReply_session (s : State) : s.popReply.session = s.session := by
  unfold State.popReply; split <;> rfl
@[simp] theorem State.popReply_input (s : State) : s.popReply.input = s.input := by
  unfold State.popReply; split <;> rfl
@[simp] theorem State.popReply_busLog (s : State) : s.popReply.busLog = s.busLog := by
  unfold State.popReply; split <;> rfl
@[simp] theorem State.popReply_accIx (s : State) : s.popReply.accIx = s.accIx := by
  unfold State.popReply; split <;> rfl
@[simp] theorem State.popReply_unwrittenAcc (s : State) : s.popReply.unwrittenAcc = s.unwrittenAcc := by
  unfold State.popReply; split <;> rfl
@[simp] theorem State.popReply_tx (s : State) : s.popReply.tx = s.tx := by
  unfold State.popReply; split <;> rfl
@[simp] theorem State.popReply_result (s : State) : s.popReply.result = s.result := by
  unfold State.popReply; split <;> rfl

@[simp] theorem State.popReply_replies (s : State) : s.popReply.replies = s.replies.tail := by
  unfold State.popReply; split <;> simp_all

theorem State.popReply_of_cons (s : State) (r : BusReply) (rs : List BusReply) (h : s.replies = r :: rs) :
    s.popReply = { s with replies := rs } := by
  unfold State.popReply; rw [h]

theorem State.popReply_of_nil (s : State) (h : s.replies = []) : s.popReply = { s with freeIx := s.freeIx + 1 } := by
  unfold State.popReply; rw [h]

theorem State.nextReply_of_cons (s : State) (r : BusReply) (rs : List BusReply) (h : s.replies = r :: rs) :
    s.nextReply = r := by
  unfold State.nextReply; rw [h]

/-- Taking an answer changes the queue or the counter, and nothing else. -/
theorem State.popReply_frame (s : State) :
    s.popReply = { s with replies := s.popReply.replies, freeIx := s.popReply.freeIx } := by
  unfold State.popReply; split <;> rfl

@[simp] theorem State.busCall_cfg (s : State) (c : BusCall) : (s.busCall c).cfg = s.cfg := by simp [State.busCall]
@[simp] theorem State.busCall_acc8 (s : State) (c : BusCall) : (s.busCall c).acc8 = s.acc8 := by simp [State.busCall]
@[simp] theorem State.busCall_acc16 (s : State) (c : BusCall) : (s.busCall c).acc16 = s.acc16 := by simp [State.busCall]
@[simp] theorem State.busCall_dec (s : State) (c : BusCall) : (s.busCall c).dec = s.dec := by simp [State.busCall]
@[simp] theorem State.busCall_session (s : State) (c : BusCall) : (s.busCall c).session = s.session := by simp [State.busCall]
@[simp] theorem State.busCall_input (s : State) (c : BusCall) : (s.busCall c).input = s.input := by simp [State.busCall]
@[simp] theorem State.busCall_tx (s : State) (c : BusCall) : (s.busCall c).tx = s.tx := by simp [State.busCall]
@[simp] theorem State.busCall_result (s : State) (c : BusCall) : (s.busCall c).result = s.result := by simp [State.busCall]
@[simp] theorem State.busCall_busLog (s : State) (c : BusCall) : (s.busCall c).busLog = s.busLog ++ [c] := rfl
@[simp] theorem State.busCall_replies (s : State) (c : BusCall) : (s.busCall c).replies = s.popReply.replies := rfl
@[simp] theorem State.busCall_freeIx (s : State) (c : BusCall) : (s.busCall c).freeIx = s.popReply.freeIx := rfl
@[simp] theorem State.busCall_accIx (s : State) (c : BusCall) : (s.busCall c).accIx = s.accIx := by simp [State.busCall]
@[simp] theorem State.busCall_unwrittenAcc (s : State) (c : BusCall) : (s.busCall c).unwrittenAcc = s.unwrittenAcc := by simp [State.busCall]

/-- A bus call changes the answers left and the log, and nothing else. -/
theorem State.busCall_frame (s : State) (c : BusCall) :
    s.busCall c = { s with
      replies := s.popReply.replies, freeIx := s.popReply.freeIx, busLog := s.busLog ++ [c] } := by
  rw [State.busCall, State.popReply_frame]

end Sys2Proof.Machine
end

