-- ==== Sys2Proof/Laws/Ops.lean ====
section
/-! SUPPORT. What the shared operations do, said once: the provers cite these and do not unfold the operations. -/

namespace Sys2Proof.Machine

/-! ### ChecksumEngine -/

section Crc
variable {w : Nat}

@[simp] theorem crcFold_nil (p : CrcParams w) (a : BitVec w) : crcFold p a [] = a := rfl

@[simp] theorem crcFold_cons (p : CrcParams w) (a : BitVec w) (b : Byte) (B : ByteString) :
    crcFold p a (b :: B) = crcFold p (crcStep p a b) B := rfl

theorem crcFold_append (p : CrcParams w) (a : BitVec w) (A B : ByteString) :
    crcFold p a (A ++ B) = crcFold p (crcFold p a A) B := List.foldl_append

@[simp] theorem crcOut_plain (p : CrcParams w) (a : BitVec w) (h : p.refout = false) (hx : p.xorout = 0#w) :
    crcOut p a = a := by simp [crcOut, h, hx]

@[simp] theorem crcShift_zero (p : CrcParams w) : crcShift p 0#w = 0#w := by simp [crcShift]

@[simp] theorem crcShifts_zero (p : CrcParams w) (n : Nat) : crcShifts p n 0#w = 0#w := by
  induction n with
  | zero => rfl
  | succ n ih => simp [crcShifts, ih]

/-- Shifting a register whose top `n` bits are zero only moves it up. -/
theorem crcShifts_of_lt (p : CrcParams w) (n : Nat) (a : BitVec w) (hn : n ≤ w) (h : a.toNat < 2 ^ (w - n)) :
    crcShifts p n a = a <<< n := by
  induction n generalizing a with
  | zero => simp [crcShifts]
  | succ n ih =>
    have hmsb : a.msb = false := by
      rw [BitVec.msb_eq_false_iff_two_mul_lt]
      calc 2 * a.toNat < 2 * 2 ^ (w - (n + 1)) := by omega
        _ = 2 ^ (w - n) := by rw [← Nat.pow_succ']; congr 1; omega
        _ ≤ 2 ^ w := Nat.pow_le_pow_right (by omega) (by omega)
    have hlt : (a <<< 1).toNat < 2 ^ (w - n) := by
      have : 2 * 2 ^ (w - (n + 1)) = 2 ^ (w - n) := by rw [← Nat.pow_succ']; congr 1; omega
      calc (a <<< 1).toNat ≤ a.toNat * 2 := by
            rw [BitVec.toNat_shiftLeft, Nat.shiftLeft_eq]; exact Nat.mod_le _ _
        _ < 2 ^ (w - n) := by omega
    rw [crcShifts, crcShift, hmsb]
    simp only [Bool.false_eq_true, if_false]
    rw [ih (a <<< 1) (by omega) hlt, ← BitVec.shiftLeft_add, Nat.add_comm]

@[simp] theorem ser_eight (v : BitVec 8) : ser v = [v] := by simp [ser, byteFromTop]

theorem ser_sixteen (v : BitVec 16) : ser v = [(v >>> 8).setWidth 8, v.setWidth 8] := by
  simp [ser, byteFromTop, List.range_succ]

@[simp] theorem csum_eight (p : CrcParams 8) (B : ByteString) : csum p B = [crc p B] := ser_eight _

@[simp] theorem csum_sixteen_length (p : CrcParams 16) (B : ByteString) : (csum p B).length = 2 := by
  simp [csum, ser_sixteen]

/-- Feeding the register its own value clears it (the 8-bit case of R98's argument). -/
theorem crcStep_own_eight (p : CrcParams 8) (a : Byte) (h : p.refin = false) : crcStep p a a = 0#8 := by
  simp [crcStep, crcEnter, crcInput, h]

/-- Feeding the 16-bit register its own two bytes, high byte first, clears it (the 16-bit case of R98's argument). -/
theorem crcFold_own_sixteen (p : CrcParams 16) (a : BitVec 16) (h : p.refin = false) : crcFold p a (ser a) = 0#16 := by
  have low : ∀ i, (0xFF#16).getLsbD i = decide (i < 8) := by
    intro i
    have := Nat.testBit_two_pow_sub_one 8 i
    simpa [BitVec.getLsbD, BitVec.ofNat] using this
  have enter_high : crcEnter p a ((a >>> 8).setWidth 8) = a &&& 0xFF#16 := by
    simp only [crcEnter, crcInput, h]
    apply BitVec.eq_of_getLsbD_eq
    intro i hi
    rw [BitVec.getLsbD_and, low]
    by_cases h8 : i < 8
    · simp [h8]
    · simp [h8, hi, show 8 + (i - 8) = i by omega, show i - 8 < 16 by omega, show i - 8 < 8 by omega]
  have step_high : crcStep p a ((a >>> 8).setWidth 8) = (a &&& 0xFF#16) <<< 8 := by
    rw [crcStep, enter_high, crcShifts_of_lt p 8 _ (by omega)]
    have : a.toNat &&& 255 ≤ 255 := Nat.and_le_right
    simp
    omega
  have enter_low : crcEnter p ((a &&& 0xFF#16) <<< 8) (a.setWidth 8) = 0#16 := by
    simp only [crcEnter, crcInput, h]
    apply BitVec.eq_of_getLsbD_eq
    intro i hi
    simp [low]
    by_cases h8 : i < 8
    · simp [h8]
    · simp [h8, hi, show i - 8 < 16 by omega, Bool.and_comm]
  rw [ser_sixteen, crcFold_cons, crcFold_cons, step_high]
  simp [crcStep, enter_low]

end Crc

/-- `CRC8_REF` is a legal tuple (R9). -/
theorem crc8Ref_zeroResidue : ZeroResidue Config.crc8Ref := by
  intro B
  simp [crc, crcFold_append, crcStep_own_eight, Config.crc8Ref]

/-- `CRC16_REF` is a legal tuple (R9). -/
theorem crc16Ref_zeroResidue : ZeroResidue Config.crc16Ref := by
  intro B
  have plain : ∀ a, crcOut Config.crc16Ref a = a := fun a => crcOut_plain _ _ rfl rfl
  simp only [crc, csum, plain, crcFold_append]
  exact crcFold_own_sixteen _ _ rfl

/-! ### FrameCodec -/

@[simp] theorem escaped_nil : escaped [] = [] := rfl

@[simp] theorem escaped_cons (b : Byte) (X : ByteString) : escaped (b :: X) = esc b ++ escaped X := rfl

theorem escaped_append (X Y : ByteString) : escaped (X ++ Y) = escaped X ++ escaped Y := List.flatMap_append

@[simp] theorem decodeBytes_nil (d : Decoder) : decodeBytes d [] = (d, []) := rfl

@[simp] theorem decodeBytes_cons (d : Decoder) (b : Byte) (B : ByteString) :
    decodeBytes d (b :: B) = ((decodeBytes (dstep d b).1 B).1, (dstep d b).2 ++ (decodeBytes (dstep d b).1 B).2) := rfl

/-- Decoding is a left fold over state that persists: cutting the input changes nothing. -/
theorem decodeBytes_append (d : Decoder) (A B : ByteString) :
    decodeBytes d (A ++ B) =
      ((decodeBytes (decodeBytes d A).1 B).1, (decodeBytes d A).2 ++ (decodeBytes (decodeBytes d A).1 B).2) := by
  induction A generalizing d with
  | nil => simp
  | cons b A ih => simp [ih]

theorem reserved_iff (b : Byte) : reserved b = true ↔ b = 0xF1#8 ∨ b = 0xFA#8 ∨ b = 0xFF#8 := by
  simp [reserved, Config.START, Config.END, Config.ESCAPE, or_assoc]

theorem reserved_eq_false_iff (b : Byte) : reserved b = false ↔ b ≠ 0xF1#8 ∧ b ≠ 0xFA#8 ∧ b ≠ 0xFF#8 := by
  simp [reserved, Config.START, Config.END, Config.ESCAPE, and_assoc]

/-- Everything one transition can do (R106 to R113). -/
theorem dstep_cases (d : Decoder) (b : Byte) :
    (d.state = .waitingForStart ∧ b ≠ 0xF1#8 ∧ dstep d b = (d, [])) ∨
    (d.state = .waitingForStart ∧ b = 0xF1#8 ∧ dstep d b = ({ state := .accumulating, buf := [] }, [])) ∨
    (d.state = .accumulating ∧ b = 0xFF#8 ∧ dstep d b = ({ state := .escaped, buf := d.buf }, [])) ∨
    (d.state = .accumulating ∧ b = 0xF1#8 ∧
      dstep d b = ({ state := .accumulating, buf := [] }, [.framingError .unexpectedStart])) ∨
    (d.state = .accumulating ∧ b = 0xFA#8 ∧ dstep d b = ({ state := .waitingForStart, buf := [] }, [.msg d.buf])) ∨
    (d.state = .accumulating ∧ reserved b = false ∧
      dstep d b = ({ state := .accumulating, buf := d.buf ++ [b] }, [])) ∨
    (d.state = .escaped ∧ reserved b = true ∧ dstep d b = ({ state := .accumulating, buf := d.buf ++ [b] }, [])) ∨
    (d.state = .escaped ∧ reserved b = false ∧
      dstep d b = ({ state := .waitingForStart, buf := [] }, [.framingError .invalidEscape])) := by
  obtain ⟨st, buf⟩ := d
  cases st with
  | waitingForStart =>
    by_cases h : b = 0xF1#8
    · simp [dstep, Config.START, h]
    · simp [dstep, Config.START, h]
  | accumulating =>
    by_cases h1 : b = 0xF1#8
    · simp [dstep, Config.START, h1]
    · by_cases h2 : b = 0xFA#8
      · simp [dstep, Config.START, Config.END, h2]
      · by_cases h3 : b = 0xFF#8
        · simp [dstep, Config.START, Config.END, Config.ESCAPE, h3]
        · simp [dstep, Config.START, Config.END, Config.ESCAPE, h1, h2, h3, reserved_eq_false_iff]
  | escaped =>
    cases h : reserved b <;> simp [dstep, h]

/-- Inside a frame, one byte's escaped image puts the byte into the buffer and emits nothing. -/
theorem decodeBytes_esc (buf : ByteString) (b : Byte) :
    decodeBytes { state := .accumulating, buf := buf } (esc b) = ({ state := .accumulating, buf := buf ++ [b] }, []) := by
  cases h : reserved b
  · obtain ⟨h1, h2, h3⟩ := (reserved_eq_false_iff b).mp h
    simp [esc, h, dstep, Config.START, Config.END, Config.ESCAPE, h1, h2, h3]
  · simp [esc, h, dstep, Config.START, Config.END, Config.ESCAPE]

/-- Inside a frame, an escaped string puts the string into the buffer and emits nothing. -/
theorem decodeBytes_escaped (buf X : ByteString) :
    decodeBytes { state := .accumulating, buf := buf } (escaped X) =
      ({ state := .accumulating, buf := buf ++ X }, []) := by
  induction X generalizing buf with
  | nil => simp
  | cons b X ih => rw [escaped_cons, decodeBytes_append, decodeBytes_esc]; simp [ih]

/-- While the decoder waits, bytes other than START do nothing (R106). -/
theorem decodeBytes_waiting (buf R : ByteString) (h : 0xF1#8 ∉ R) :
    decodeBytes { state := .waitingForStart, buf := buf } R = ({ state := .waitingForStart, buf := buf }, []) := by
  induction R with
  | nil => rfl
  | cons b R ih =>
    have hb : b ≠ 0xF1#8 := fun e => h (by simp [e])
    have hR : 0xF1#8 ∉ R := fun e => h (by simp [e])
    simp [dstep, Config.START, hb, ih hR]

/-- A whole frame, from a decoder that takes its first byte as a frame start: the content is emitted as one message. -/
theorem decodeBytes_encodeFrame (d : Decoder) (ev : List Event) (P C : ByteString)
    (h : dstep d 0xF1#8 = ({ state := .accumulating, buf := [] }, ev)) :
    decodeBytes d (encodeFrame P C) = ({ state := .waitingForStart, buf := [] }, ev ++ [.msg (P ++ C)]) := by
  simp only [encodeFrame, List.cons_append, List.nil_append, decodeBytes_cons, Config.START, h]
  rw [decodeBytes_append, decodeBytes_escaped]
  simp [dstep, Config.START, Config.END]

/-- A transition keeps the decoder's invariant (R27). -/
theorem dstep_keeps_decoderInv (d : Decoder) (b : Byte) (h : decoderInv d) : decoderInv (dstep d b).1 := by
  rcases dstep_cases d b with h' | h' | h' | h' | h' | h' | h' | h' <;> rw [h'.2.2] <;> simp_all [decoderInv]

/-- A DECODE call keeps the decoder's invariant (R27). -/
theorem decodeBytes_keeps_decoderInv (d : Decoder) (B : ByteString) (h : decoderInv d) :
    decoderInv (decodeBytes d B).1 := by
  induction B generalizing d with
  | nil => exact h
  | cons b B ih => exact ih _ (dstep_keeps_decoderInv d b h)

/-! ### Gate and transactions -/

@[simp] theorem operandsInRange_iff (dev reg : Nat) : operandsInRange dev reg = true ↔ dev < 128 ∧ reg < 256 := by
  simp [operandsInRange]

/-- The gate lets the operation through exactly when a session is open. -/
theorem whenConnected_next_iff (s u t : State) :
    whenConnected s u = .next t ↔ s.session.port.isSome = true ∧ u = t := by
  unfold whenConnected Session.isOpen
  split <;> simp_all

/-- The gate is open: the operation has its effect. -/
theorem whenConnected_of_open (s u : State) (h : s.session.port.isSome = true) : whenConnected s u = .next u := by
  simp [whenConnected, Session.isOpen, h]

/-- A transaction operation answers a next state exactly when its operands are in range and a session is open. -/
theorem transaction_next_iff (dev reg : Nat) (s t : State) (body : DevAddr → Byte → State) :
    transaction dev reg s body = .next t ↔
      (dev < 128 ∧ reg < 256) ∧ s.session.port.isSome = true ∧ body (BitVec.ofNat 7 dev) (BitVec.ofNat 8 reg) = t := by
  unfold transaction
  split
  · rename_i h
    rw [whenConnected_next_iff]
    simp [(operandsInRange_iff dev reg).mp h]
  · rename_i h
    rw [operandsInRange_iff] at h
    simp [h]

/-- Operands in range and a session open: the transaction's body is its effect. -/
theorem transaction_of_open (s : State) (dev : DevAddr) (reg : Byte) (body : DevAddr → Byte → State)
    (h : s.session.port.isSome = true) :
    transaction dev.toNat reg.toNat s body = .next (body dev reg) := by
  rw [transaction_next_iff]
  refine ⟨⟨dev.isLt, reg.isLt⟩, h, ?_⟩
  simp

/-- Everything a write's bus phase can do. -/
theorem writeTransaction_cases (s : State) (dev : DevAddr) (W : ByteString) :
    (s.nextReply = .busOk ∧ s.writeTransaction dev W = { s with
      replies := s.popReply.replies, freeIx := s.popReply.freeIx, busLog := s.busLog ++ [.write dev W],
      acc8 := .bottom (Config.freeAcc8 s.accIx), accIx := s.accIx + 1, result := .ok }) ∨
    (s.nextReply ≠ .busOk ∧ s.writeTransaction dev W = { s with
      replies := s.popReply.replies, freeIx := s.popReply.freeIx, busLog := s.busLog ++ [.write dev W],
      acc8 := .bottom (Config.freeAcc8 s.accIx), accIx := s.accIx + 1, result := .err .bus }) := by
  unfold State.writeTransaction
  rw [State.busCall_frame]
  cases h : s.nextReply <;> simp [replyAcknowledges, State.return, State.raise, State.dropAcc8]

/-- Everything a read's bus phase and verification can do. -/
theorem readTransaction_cases (s : State) (dev : DevAddr) (reg : Byte) (n : Nat)
    (verify : ByteString → Option ByteString) :
    ∃ res, s.readTransaction dev reg n verify = { s with
      replies := s.popReply.replies, freeIx := s.popReply.freeIx, busLog := s.busLog ++ [.read dev reg n],
      acc8 := .bottom (Config.freeAcc8 s.accIx), accIx := s.accIx + 1, result := res } ∧
      ((replyData n s.nextReply = none ∧ res = .err .bus) ∨
       (∃ rx, s.nextReply = .busData rx ∧ rx.length = n ∧ verify rx = none ∧ res = .err .checksum) ∨
       (∃ rx out, s.nextReply = .busData rx ∧ rx.length = n ∧ verify rx = some out ∧ res = .okData out)) := by
  unfold State.readTransaction
  rw [State.busCall_frame]
  cases h : s.nextReply with
  | busOk => exact ⟨_, by simp only [replyData]; rfl, .inl ⟨rfl, rfl⟩⟩
  | busFail => exact ⟨_, by simp only [replyData]; rfl, .inl ⟨rfl, rfl⟩⟩
  | busData rx =>
    by_cases hl : rx.length = n
    · cases hv : verify rx with
      | none => exact ⟨.err .checksum, by simp [replyData, hl, hv]; rfl, .inr (.inl ⟨rx, rfl, hl, hv, rfl⟩)⟩
      | some out => exact ⟨.okData out, by simp [replyData, hl, hv]; rfl, .inr (.inr ⟨rx, out, rfl, hl, hv, rfl⟩)⟩
    · exact ⟨.err .bus, by simp [replyData, hl]; rfl, .inl ⟨by simp [replyData, hl], rfl⟩⟩

/-- The stream of blocks, register by register: each segment and its checksum, the first covering `pre` too. -/
theorem blocks_eq_flatMap (p : CrcParams 8) (sizes : List Nat) (pre D : ByteString) :
    blocks p pre sizes D = (List.range sizes.length).flatMap (fun i =>
      (D.drop (sizes.take i).sum).take (sizes.getD i 0) ++
        [crc p ((if i = 0 then pre else []) ++ (D.drop (sizes.take i).sum).take (sizes.getD i 0))]) := by
  induction sizes generalizing pre D with
  | nil => rfl
  | cons n l ih =>
    rw [blocks, ih]
    simp [List.range_succ_eq_map, List.flatMap_map, List.append_assoc]

/-- The stream of blocks is as long as the data and one byte a register (R141). -/
theorem blocks_length (p : CrcParams 8) (sizes : List Nat) (pre D : ByteString) (hs : sizes.sum = D.length) :
    (blocks p pre sizes D).length = D.length + sizes.length := by
  induction sizes generalizing pre D with
  | nil => simp at hs; simp [blocks]; omega
  | cons n l ih =>
    have hn : n ≤ D.length := by simp at hs; omega
    have := ih [] (D.drop n) (by simp at hs ⊢; omega)
    simp only [blocks, List.length_append, this]
    simp; omega

/-- Walking a stream of blocks made with the same coverage gives the data back, when the parameters are legal. -/
theorem verifyBlocks_blocks (p : CrcParams 8) (hz : ZeroResidue p) (sizes : List Nat) (pre D : ByteString)
    (hs : sizes.sum = D.length) : verifyBlocks p pre sizes (blocks p pre sizes D) = some D := by
  induction sizes generalizing pre D with
  | nil =>
    have : D = [] := List.eq_nil_of_length_eq_zero (by simp at hs; omega)
    simp [verifyBlocks, this]
  | cons n l ih =>
    have hn : n ≤ D.length := by simp at hs; omega
    have rest := ih [] (D.drop n) (by simp at hs ⊢; omega)
    have head : (blocks p pre (n :: l) D).take (n + 1) = D.take n ++ csum p (pre ++ D.take n) := by
      simp only [blocks]
      rw [List.take_append_of_le_length (by simp [hn]), List.take_of_length_le (by simp [hn])]
    have tail : (blocks p pre (n :: l) D).drop (n + 1) = blocks p [] l (D.drop n) := by
      simp only [blocks]
      rw [List.drop_append_of_le_length (by simp [hn]), List.drop_eq_nil_of_le (by simp [hn])]
      simp
    have zero := hz (pre ++ D.take n)
    rw [List.append_assoc] at zero
    rw [verifyBlocks, head, tail, rest, if_pos zero]
    simp only [Option.some.injEq]
    rw [List.take_append_of_le_length (by simp [hn])]
    rw [List.take_take, Nat.min_self, List.take_append_drop]

/-! ### Session -/

theorem mem_insertName (c x : Nat) (xs : List Nat) : x ∈ insertName c xs ↔ x = c ∨ x ∈ xs := by
  induction xs with
  | nil => simp [insertName]
  | cons y ys ih =>
    unfold insertName
    split
    · simp
    · split
      · subst_vars; simp
      · simp [ih]; tauto

theorem mem_removeName (c x : Nat) (xs : List Nat) : x ∈ removeName c xs ↔ x ≠ c ∧ x ∈ xs := by
  simp [removeName, and_comm]

/-- Adding a name keeps the list strictly rising. -/
theorem insertName_keeps_rising (c : Nat) (xs : List Nat) (h : xs.Pairwise (· < ·)) :
    (insertName c xs).Pairwise (· < ·) := by
  induction xs with
  | nil => simp [insertName]
  | cons y ys ih =>
    obtain ⟨hy, hys⟩ := List.pairwise_cons.mp h
    unfold insertName
    split
    · rename_i hc
      refine List.pairwise_cons.mpr ⟨?_, h⟩
      intro z hz
      rcases List.mem_cons.mp hz with rfl | hz
      · exact hc
      · exact Nat.lt_trans hc (hy z hz)
    · split
      · exact h
      · refine List.pairwise_cons.mpr ⟨?_, ih hys⟩
        intro z hz
        rcases (mem_insertName c z ys).mp hz with rfl | hz
        · omega
        · exact hy z hz

/-- Taking a name out keeps the list strictly rising. -/
theorem removeName_keeps_rising (c : Nat) (xs : List Nat) (h : xs.Pairwise (· < ·)) :
    (removeName c xs).Pairwise (· < ·) := h.sublist List.filter_sublist

/-- `connect` keeps the session's invariant. -/
theorem connect_keeps_sessionInv (x : Session) (c port : Nat) (opens : Bool) (h : sessionInv x) :
    sessionInv (x.connect c port opens) := by
  unfold Session.connect
  split
  · refine ⟨?_, insertName_keeps_rising c _ h.2⟩
    have : insertName c x.consumers ≠ [] := List.ne_nil_of_mem ((mem_insertName c c _).mpr (.inl rfl))
    simp [Session.register, this]
  · exact h

/-- `disconnect` keeps the session's invariant. -/
theorem disconnect_keeps_sessionInv (x : Session) (c : Nat) (h : sessionInv x) : sessionInv (x.disconnect c) := by
  unfold Session.disconnect
  split
  · simp [sessionInv, Session.closed]
  · rename_i hne
    refine ⟨?_, removeName_keeps_rising c _ h.2⟩
    have hr : removeName c x.consumers ≠ [] := by simpa using hne
    obtain ⟨y, hy⟩ := List.exists_mem_of_ne_nil _ hr
    have : x.consumers ≠ [] := List.ne_nil_of_mem ((mem_removeName c y _).mp hy).2
    simp [hr, h.1.mpr this]

end Sys2Proof.Machine
end

