-- ==== Sys2Proof/Laws/Exec.lean ====
section
/-! SUPPORT. Everything an instruction, an input and a step can do when they answer a next state, said once. -/

namespace Sys2Proof.Machine

/-- Everything an instruction can do when it answers a next state: it writes one accumulator, or its result alone, in
both cases with a use of `⊥` recorded; or the decoder; or it is a transaction, turned away or with one bus call. -/
theorem exec_cases (i : Instr) (s t : State) (h : exec i s = .next t) :
    (t = { s with acc8 := t.acc8, unwrittenAcc := t.unwrittenAcc, result := t.result } ∧
      (s.unwrittenAcc = true → t.unwrittenAcc = true) ∧ (∀ e, t.result ≠ .err e) ∧ (∀ ev, t.result ≠ .events ev) ∧
      (i = .crc8Reset ∨ ∃ B, i = .crc8Update B)) ∨
    (t = { s with acc16 := t.acc16, unwrittenAcc := t.unwrittenAcc, result := t.result } ∧
      (s.unwrittenAcc = true → t.unwrittenAcc = true) ∧ (∀ e, t.result ≠ .err e) ∧ (∀ ev, t.result ≠ .events ev) ∧
      (i = .crc16Reset ∨ ∃ B, i = .crc16Update B)) ∨
    (t = { s with unwrittenAcc := t.unwrittenAcc, result := t.result } ∧
      (s.unwrittenAcc = true → t.unwrittenAcc = true) ∧ (∀ e, t.result ≠ .err e) ∧ (∀ ev, t.result ≠ .events ev) ∧
      (i = .crc8Finalize ∨ i = .crc16Finalize ∨ (∃ P C, i = .encode P C) ∨ (∃ d, i = .addrW d) ∨ ∃ d, i = .addrR d)) ∨
    (∃ B, t = s.receive B ∧
      ((∃ B, i = .decode B) ∨ i = .startSym ∨ i = .endSym ∨ i = .escapeSym ∨ (∃ b, i = .literal b) ∨ i = .escStart ∨
        i = .escEnd ∨ i = .escEsc)) ∨
    (t = s.raise .protocolViolation ∧ ((∃ d r l b, i = .writeMulti d r l b) ∨ ∃ d r l n, i = .readMulti d r l n)) ∨
    (∃ d W, t = s.writeTransaction d W ∧ ((∃ d r b, i = .writeReg d r b) ∨ ∃ d r l b, i = .writeMulti d r l b)) ∨
    (∃ d r n v, t = s.readTransaction d r n v ∧ ((∃ d r n, i = .readReg d r n) ∨ ∃ d r l n, i = .readMulti d r l n)) := by
  cases i <;> simp only [exec, execCrc8Reset, execCrc8Update, execCrc8Finalize, execCrc16Reset, execCrc16Update,
    execCrc16Finalize, execEncode, execDecode, execWriteReg, execReadReg, execWriteMulti, execReadMulti, execStart,
    execEnd, execEscape, execLiteral, execEscStart, execEscEnd, execEscEsc, execAddrW, execAddrR,
    transaction_next_iff, whenConnected_next_iff] at h
  case crc8Reset => injection h with h; subst h; left; simp [State.return]
  case crc8Update => injection h with h; subst h; left; simp +contextual [State.return, State.recordUse]
  case crc16Reset => injection h with h; subst h; right; left; simp [State.return]
  case crc16Update => injection h with h; subst h; right; left; simp +contextual [State.return, State.recordUse]
  case crc8Finalize => injection h with h; subst h; right; right; left; simp +contextual [State.return, State.recordUse]
  case crc16Finalize => injection h with h; subst h; right; right; left; simp +contextual [State.return, State.recordUse]
  case encode => injection h with h; subst h; right; right; left; simp [State.return]
  case addrW => injection h with h; subst h; right; right; left; simp [State.return]
  case addrR => injection h with h; subst h; right; right; left; simp [State.return]
  case decode => injection h with h; subst h; exact .inr (.inr (.inr (.inl ⟨_, rfl, by simp⟩)))
  case startSym => exact .inr (.inr (.inr (.inl ⟨_, h.2.symm, by simp⟩)))
  case endSym => exact .inr (.inr (.inr (.inl ⟨_, h.2.symm, by simp⟩)))
  case escapeSym => exact .inr (.inr (.inr (.inl ⟨_, h.2.symm, by simp⟩)))
  case escStart => exact .inr (.inr (.inr (.inl ⟨_, h.2.symm, by simp⟩)))
  case escEnd => exact .inr (.inr (.inr (.inl ⟨_, h.2.symm, by simp⟩)))
  case escEsc => exact .inr (.inr (.inr (.inl ⟨_, h.2.symm, by simp⟩)))
  case literal =>
    split at h
    · cases h
    · rw [whenConnected_next_iff] at h
      exact .inr (.inr (.inr (.inl ⟨_, h.2.symm, by simp⟩)))
  case writeReg => exact .inr (.inr (.inr (.inr (.inr (.inl ⟨_, _, h.2.2.symm, by simp⟩)))))
  case readReg => exact .inr (.inr (.inr (.inr (.inr (.inr ⟨_, _, _, _, h.2.2.symm, by simp⟩)))))
  case writeMulti =>
    obtain ⟨_, _, h⟩ := h
    split at h
    · exact .inr (.inr (.inr (.inr (.inr (.inl ⟨_, _, h.symm, by simp⟩)))))
    · exact .inr (.inr (.inr (.inr (.inl ⟨h.symm, by simp⟩))))
  case readMulti =>
    obtain ⟨_, _, h⟩ := h
    split at h
    · exact .inr (.inr (.inr (.inr (.inr (.inr ⟨_, _, _, _, h.symm, by simp⟩)))))
    · exact .inr (.inr (.inr (.inr (.inl ⟨h.symm, by simp⟩))))

/-- What no instruction touches: the inputs waiting, the session, TX; and the decoder moves by received bytes only. -/
theorem exec_keeps (i : Instr) (s t : State) (h : exec i s = .next t) :
    t.input = s.input ∧ t.session = s.session ∧ t.tx = s.tx ∧ ∃ B, t.dec = (decodeBytes s.dec B).1 := by
  rcases exec_cases i s t h with ⟨h, _⟩ | ⟨h, _⟩ | ⟨h, _⟩ | ⟨B, h, _⟩ | ⟨h, _⟩ | ⟨d, W, h, _⟩ | ⟨d, r, n, v, h, _⟩
  · rw [h]; exact ⟨rfl, rfl, rfl, [], rfl⟩
  · rw [h]; exact ⟨rfl, rfl, rfl, [], rfl⟩
  · rw [h]; exact ⟨rfl, rfl, rfl, [], rfl⟩
  · rw [h]; exact ⟨rfl, rfl, rfl, B, rfl⟩
  · rw [h]; exact ⟨rfl, rfl, rfl, [], rfl⟩
  · rcases writeTransaction_cases s d W with h' | h' <;> rw [h, h'.2] <;> exact ⟨rfl, rfl, rfl, [], rfl⟩
  · obtain ⟨res, h', _⟩ := readTransaction_cases s d r n v
    rw [h, h']; exact ⟨rfl, rfl, rfl, [], rfl⟩

@[simp] theorem afterTrailer_input (s : State) : s.afterTrailer.input = s.input := by
  unfold State.afterTrailer; split <;> rfl
@[simp] theorem afterTrailer_cfg (s : State) : s.afterTrailer.cfg = s.cfg := by
  unfold State.afterTrailer; split <;> rfl
@[simp] theorem afterTrailer_dec (s : State) : s.afterTrailer.dec = s.dec := by
  unfold State.afterTrailer; split <;> rfl
@[simp] theorem afterTrailer_session (s : State) : s.afterTrailer.session = s.session := by
  unfold State.afterTrailer; split <;> rfl

@[simp] theorem afterTrailer_unwrittenAcc (s : State) : s.afterTrailer.unwrittenAcc = s.unwrittenAcc := by
  unfold State.afterTrailer; split <;> rfl

/-- An input that answers a next state leaves the inputs still waiting alone. -/
theorem runInput_keeps_input (x : Input) (s t : State) (h : runInput x s = .next t) : t.input = s.input := by
  cases x with
  | code c =>
    simp only [runInput, runCode] at h
    split at h
    · exact (exec_keeps _ _ _ h).1
    · cases h
  | deliver B =>
    simp only [runInput, runDeliver, whenConnected_next_iff] at h
    rw [← h.2]; rfl
  | sendMsg M =>
    simp only [runInput, runSendMsg, whenConnected_next_iff] at h
    rw [← h.2]; simp
  | checkMsg F =>
    simp only [runInput, runCheckMsg, Host.Outcome.next.injEq] at h
    rw [← h]; simp
  | transmit W =>
    simp only [runInput, runTransmit, whenConnected_next_iff] at h
    rw [← h.2]; rfl
  | checksum8 B => simp only [runInput, runChecksum8, Host.Outcome.next.injEq] at h; rw [← h]; rfl
  | checksum16 B => simp only [runInput, runChecksum16, Host.Outcome.next.injEq] at h; rw [← h]; rfl
  | connect c p o => simp only [runInput, runConnect, Host.Outcome.next.injEq] at h; rw [← h]; rfl
  | disconnect c => simp only [runInput, runDisconnect, Host.Outcome.next.injEq] at h; rw [← h]; rfl
  | resetCore => simp only [runInput, runResetCore, Host.Outcome.next.injEq] at h; rw [← h]; rfl

/-- A table word's instruction is what the next step of the state given that word runs; only the session can differ. -/
theorem step_withFetchWord (s : State) (nbits w : Nat) (i : Instr) (c : Code) (hc : tableCode nbits w = some c)
    (hi : Sys2Proof.decode c = .ok i) :
    step (s.withFetchWord nbits w) =
      exec i { s with session := if gatedCode c then s.session.ensureOpen else s.session } := by
  simp [step, runNext, State.withFetchWord, State.withTableWord, hc, State.withCode, runInput, runCode, hi]

/-- One more step of a machine's run, by what its first step answers. -/
theorem run_succ (M : Host.Core) (n : Nat) (s : M.State) :
    M.run (n + 1) s = match M.step s with
      | .next u => M.run n u | .fault f => .fault f | .refused r => .refused r := rfl

/-- A run goes on where its first step answers a next state. -/
theorem run_succ_of_next (n : Nat) (s u : State) (h : step s = .next u) : core.run (n + 1) s = core.run n u := by
  rw [run_succ core n s, show core.step s = .next u from h]

/-- A run stops where its first step refuses. -/
theorem run_succ_of_refused (n : Nat) (s : State) (r : Refusal) (h : step s = .refused r) :
    core.run (n + 1) s = .refused r := by
  rw [run_succ core n s, show core.step s = .refused r from h]

/-- A delivered chunk, with a session open, is DECODE of it. -/
theorem deliver_of_open (s : State) (B : ByteString) (h : s.session.port.isSome = true) :
    runInput (.deliver B) s = .next (s.receive B) := by
  simp [runInput, runDeliver, whenConnected_of_open _ _ h]

end Sys2Proof.Machine
end

