-- ==== Sys2Proof/Laws/PerInstr.lean ====
section
/-! SUPPORT. The family RowMatch: the code of every well-formed instruction matches the match and mask of its row of
spec/opcode_table.json, in the row's format. -/

namespace Sys2Proof.Laws.RowMatch

/-- The formats that have rows (R59). -/
inductive Format where
  | cmd
  | frame
  | pair
  | addr
  deriving DecidableEq, Repr

/-- The row of the opcode table: format, match, mask, as the table prints them. -/
def row : Instr → Format × Nat × Nat
  | .crc8Reset => (.cmd, 0x10, 0xFF)
  | .crc8Update _ => (.cmd, 0x11, 0xFF)
  | .crc8Finalize => (.cmd, 0x12, 0xFF)
  | .crc16Reset => (.cmd, 0x20, 0xFF)
  | .crc16Update _ => (.cmd, 0x21, 0xFF)
  | .crc16Finalize => (.cmd, 0x22, 0xFF)
  | .encode _ _ => (.cmd, 0x30, 0xFF)
  | .decode _ => (.cmd, 0x31, 0xFF)
  | .writeReg _ _ _ => (.cmd, 0x40, 0xFF)
  | .readReg _ _ _ => (.cmd, 0x41, 0xFF)
  | .writeMulti _ _ _ _ => (.cmd, 0x42, 0xFF)
  | .readMulti _ _ _ _ => (.cmd, 0x43, 0xFF)
  | .startSym => (.frame, 0xF1, 0xFF)
  | .endSym => (.frame, 0xFA, 0xFF)
  | .escapeSym => (.frame, 0xFF, 0xFF)
  | .literal _ => (.frame, 0x00, 0x00)
  | .escStart => (.pair, 0xFFF1, 0xFFFF)
  | .escEnd => (.pair, 0xFFFA, 0xFFFF)
  | .escEsc => (.pair, 0xFFFF, 0xFFFF)
  | .addrW _ => (.addr, 0x00, 0x01)
  | .addrR _ => (.addr, 0x01, 0x01)

/-- The bits the table numbers, first wire byte of a pair in bits 15..8 (the table's note). -/
def word : Code → Format × Nat
  | .cmd op _ => (.cmd, op.toNat)
  | .frame b => (.frame, b.toNat)
  | .pair first second => (.pair, 256 * first.toNat + second.toNat)
  | .addr b => (.addr, b.toNat)

/-- The instruction's code, masked, is its row's match, in its row's format. -/
def Statement (i : Instr) : Prop :=
  i.wellFormed = true → (word (encode i)).1 = (row i).1 ∧ (word (encode i)).2 &&& (row i).2.2 = (row i).2.1

theorem crc8Reset : Statement .crc8Reset := fun _ => by decide
theorem crc8Update (B : ByteString) : Statement (.crc8Update B) := fun _ => ⟨rfl, by simp [Sys2Proof.encode, word, row]⟩
theorem crc8Finalize : Statement .crc8Finalize := fun _ => by decide
theorem crc16Reset : Statement .crc16Reset := fun _ => by decide
theorem crc16Update (B : ByteString) : Statement (.crc16Update B) := fun _ => ⟨rfl, by simp [Sys2Proof.encode, word, row]⟩
theorem crc16Finalize : Statement .crc16Finalize := fun _ => by decide
theorem encode (P C : ByteString) : Statement (.encode P C) := fun _ => ⟨rfl, by simp [Sys2Proof.encode, word, row]⟩
theorem decode (B : ByteString) : Statement (.decode B) := fun _ => ⟨rfl, by simp [Sys2Proof.encode, word, row]⟩
theorem writeReg (dev reg : Nat) (data : ByteString) : Statement (.writeReg dev reg data) := fun _ => ⟨rfl, by simp [Sys2Proof.encode, word, row]⟩
theorem readReg (dev reg length : Nat) : Statement (.readReg dev reg length) := fun _ => ⟨rfl, by simp [Sys2Proof.encode, word, row]⟩
theorem writeMulti (dev firstReg : Nat) (regSizes : List Nat) (data : ByteString) :
    Statement (.writeMulti dev firstReg regSizes data) := fun _ => ⟨rfl, by simp [Sys2Proof.encode, word, row]⟩
theorem readMulti (dev firstReg : Nat) (regSizes : List Nat) (totalLength : Nat) :
    Statement (.readMulti dev firstReg regSizes totalLength) := fun _ => ⟨rfl, by simp [Sys2Proof.encode, word, row]⟩
theorem startSym : Statement .startSym := fun _ => by decide
theorem endSym : Statement .endSym := fun _ => by decide
theorem escapeSym : Statement .escapeSym := fun _ => by decide
theorem literal (b : Byte) : Statement (.literal b) := fun _ => ⟨rfl, Nat.and_zero _⟩
theorem escStart : Statement .escStart := fun _ => by decide
theorem escEnd : Statement .escEnd := fun _ => by decide
theorem escEsc : Statement .escEsc := fun _ => by decide
theorem addrW (dev : DevAddr) : Statement (.addrW dev) := fun _ => ⟨rfl, by revert dev; decide +kernel⟩
theorem addrR (dev : DevAddr) : Statement (.addrR dev) := fun _ => ⟨rfl, by revert dev; decide +kernel⟩

end Sys2Proof.Laws.RowMatch
end

