-- ==== Sys2Proof/Tests/Slice0.lean ====
section
/-! SUPPORT. Tests. Expected values are taken from spec/95_test_vectors.md (vectors V3.n, tables 2.n and 4.n, programs
P1 to P4), the encodings from spec/30_encoding.md. The witnesses show, for every statement that has hypotheses, states and
operands that meet them, clause by clause. -/

namespace Sys2Proof.Tests

open Sys2Proof Sys2Proof.Machine

/-! ### Small states and what a test reads of an outcome -/

/-- The reference configuration of the vectors (R9), with the trailer. -/
def refCfg : Cfg := { crc8 := Config.crc8Ref, crc16 := Config.crc16Ref, trailer16 := true }

/-- After reset, under the reference configuration, with a session open. -/
def refState : State := { State.reset with cfg := refCfg, session := { port := some 0, consumers := [0] } }

/-- The same with nobody connected. -/
def shutState : State := { State.reset with cfg := refCfg }

/-- The decoder in a given state with a given buffer. -/
def decoderIn (d : DecState) (buf : ByteString) : State := { refState with dec := { state := d, buf := buf } }

/-- The bus will answer `r`. -/
def answered (r : BusReply) : State := { refState with replies := [r] }

def out : Host.Outcome State Fault Refusal → Option State
  | .next t => some t
  | .fault _ => none
  | .refused _ => none

/-- Has the model fault been recorded? -/
def recordOf (o : Host.Outcome State Fault Refusal) : Option Bool := (out o).map (fun t => t.unwrittenAcc)

def refusalIn : Host.Outcome State Fault Refusal → Option Refusal
  | .next _ => none
  | .fault _ => none
  | .refused r => some r

def resultOf (o : Host.Outcome State Fault Refusal) : Option Result := (out o).map (fun t => t.result)

def decoded (c : Code) : Option Instr :=
  match decode c with
  | .ok i => some i
  | .error _ => none

def check9 : ByteString := [0x31#8, 0x32#8, 0x33#8, 0x34#8, 0x35#8, 0x36#8, 0x37#8, 0x38#8, 0x39#8]

/-! ### WellFormed: an ill-formed term for each check -/

theorem test_wf_dev_writeReg : (Instr.writeReg 0x80 0x08 [0x05#8]).wellFormed = false := by decide
theorem test_wf_reg_writeReg : (Instr.writeReg 0x11 0x100 [0x05#8]).wellFormed = false := by decide
theorem test_wf_dev_readReg : (Instr.readReg 0x80 0x08 1).wellFormed = false := by decide
theorem test_wf_reg_readReg : (Instr.readReg 0x11 0x100 1).wellFormed = false := by decide
theorem test_wf_dev_writeMulti : (Instr.writeMulti 0x80 0x20 [1] [0x05#8]).wellFormed = false := by decide
theorem test_wf_reg_writeMulti : (Instr.writeMulti 0x11 0x100 [1] [0x05#8]).wellFormed = false := by decide
theorem test_wf_dev_readMulti : (Instr.readMulti 0x80 0x20 [1] 1).wellFormed = false := by decide
theorem test_wf_reg_readMulti : (Instr.readMulti 0x11 0x100 [1] 1).wellFormed = false := by decide
theorem test_wf_literal_start : (Instr.literal 0xF1#8).wellFormed = false := by decide
theorem test_wf_literal_end : (Instr.literal 0xFA#8).wellFormed = false := by decide
theorem test_wf_literal_escape : (Instr.literal 0xFF#8).wellFormed = false := by decide
/-- Nearest accepted operands (95_test_vectors.md 4.3, R62). -/
theorem test_wf_accepted : (Instr.writeReg 0x7F 0xFF []).wellFormed = true ∧ (Instr.literal 0xF0#8).wellFormed = true := by
  decide

/-! ### Decoding: every row, from the words of R61, R62, R67, R74 -/

theorem test_decode_crc8 :
    decoded (.cmd 0x10#8 {}) = some .crc8Reset ∧ decoded (.cmd 0x11#8 { bytes := [0x22#8] }) = some (.crc8Update [0x22#8]) ∧
    decoded (.cmd 0x12#8 {}) = some .crc8Finalize := by decide
theorem test_decode_crc16 :
    decoded (.cmd 0x20#8 {}) = some .crc16Reset ∧ decoded (.cmd 0x21#8 { bytes := [0x01#8] }) = some (.crc16Update [0x01#8]) ∧
    decoded (.cmd 0x22#8 {}) = some .crc16Finalize := by decide
theorem test_decode_codec :
    decoded (.cmd 0x30#8 { bytes := [0x01#8], extra := [0x02#8] }) = some (.encode [0x01#8] [0x02#8]) ∧
    decoded (.cmd 0x31#8 { bytes := [0xF1#8] }) = some (.decode [0xF1#8]) := by decide
theorem test_decode_transactions :
    decoded (.cmd 0x40#8 { dev := 0x11, reg := 0x08, bytes := [0x05#8] }) = some (.writeReg 0x11 0x08 [0x05#8]) ∧
    decoded (.cmd 0x41#8 { dev := 0x50, reg := 0x10, count := 2 }) = some (.readReg 0x50 0x10 2) ∧
    decoded (.cmd 0x42#8 { dev := 0x11, reg := 0x20, sizes := [2, 1], bytes := [0x01#8, 0x02#8, 0x03#8] }) =
      some (.writeMulti 0x11 0x20 [2, 1] [0x01#8, 0x02#8, 0x03#8]) ∧
    decoded (.cmd 0x43#8 { dev := 0x11, reg := 0x20, sizes := [2, 1], count := 3 }) =
      some (.readMulti 0x11 0x20 [2, 1] 3) := by decide
/-- F1 is 11110001, FA is 11111010, FF is 11111111; their neighbours are literals (V3.7). -/
theorem test_decode_frame :
    decoded (.frame 0b11110001#8) = some .startSym ∧ decoded (.frame 0b11111010#8) = some .endSym ∧
    decoded (.frame 0b11111111#8) = some .escapeSym ∧ decoded (.frame 0xF0#8) = some (.literal 0xF0#8) ∧
    decoded (.frame 0xFB#8) = some (.literal 0xFB#8) := by decide
theorem test_decode_pair :
    decoded (.pair 0xFF#8 0xF1#8) = some .escStart ∧ decoded (.pair 0xFF#8 0xFA#8) = some .escEnd ∧
    decoded (.pair 0xFF#8 0xFF#8) = some .escEsc := by decide
/-- R67: 0x11 is 0010001, so AW is 00100010 and AR is 00100011. -/
theorem test_decode_addr :
    decoded (.addr 0b00100010#8) = some (.addrW 0x11#7) ∧ decoded (.addr 0b00100011#8) = some (.addrR 0x11#7) := by decide
theorem test_decode_rejects :
    decoded (.cmd 0x13#8 {}) = none ∧ decoded (.cmd 0x00#8 {}) = none ∧ decoded (.cmd 0x44#8 {}) = none ∧
    decoded (.pair 0xFF#8 0x12#8) = none ∧ decoded (.pair 0xF1#8 0xFF#8) = none := by decide
theorem test_tableWord :
    decodeTableWord 8 0x10 = some .crc8Reset ∧ decodeTableWord 8 0xFA = some .endSym ∧ decodeTableWord 0 0 = some (.literal 0#8) ∧
    decodeTableWord 16 0xFFF1 = some .escStart ∧ decodeTableWord 8 0x22 = some .crc16Finalize ∧
    decodeTableWord 8 0x01 = some (.addrR 0#7) ∧ decodeTableWord 8 0x00 = some (.addrW 0#7) := by decide
/-- The very next step after reset runs a table word, a gated one included. -/
theorem test_fetchWord :
    (out (step (State.reset.withFetchWord 8 0xF1))).map (fun t => t.dec.state) = some .accumulating ∧
    resultOf (step (State.reset.withFetchWord 8 0x30)) = some (.bytes [0xF1#8, 0xFA#8]) := by decide

/-! ### ChecksumEngine -/

theorem test_crc8Reset : (out (exec .crc8Reset refState)).map (fun t => t.acc8) = some (.val 0x00#8) := by decide
/-- Table 2.1, check value F4. -/
theorem test_crc8Update_check9 :
    resultOf (exec (.crc8Update check9) { refState with acc8 := .val 0x00#8 }) = some (.value8 0xF4#8) := by decide +kernel
/-- Table 2.1, CRC8_ALT: accumulator 85. -/
theorem test_crc8Update_reflected :
    (out (exec (.crc8Update check9) { refState with cfg := { refCfg with crc8 := Config.crc8Alt }, acc8 := .val 0x00#8 })).map
      (fun t => t.acc8) = some (.val 0x85#8) := by decide +kernel
theorem test_crc8Finalize :
    resultOf (exec .crc8Finalize { refState with acc8 := .val 0x26#8 }) = some (.bytes [0x26#8]) := by decide
/-- Section 2.2: reflect_8(F9) = 9F. -/
theorem test_crc8Finalize_reflected :
    resultOf (exec .crc8Finalize { refState with cfg := { refCfg with crc8 := Config.crc8Alt }, acc8 := .val 0xF9#8 }) =
      some (.bytes [0x9F#8]) := by decide
theorem test_crc16Reset : (out (exec .crc16Reset refState)).map (fun t => t.acc16) = some (.val 0xFFFF#16) := by decide
theorem test_crc16Update_check9 :
    resultOf (exec (.crc16Update check9) { refState with acc16 := .val 0xFFFF#16 }) = some (.value16 0x29B1#16) := by
  decide +kernel
/-- Section 2.3: after [02], [08] gives FA65. -/
theorem test_crc16Update_continues :
    resultOf (exec (.crc16Update [0x08#8]) { refState with acc16 := .val 0xC1B2#16 }) = some (.value16 0xFA65#16) := by
  decide +kernel
/-- High byte first. -/
theorem test_crc16Finalize :
    resultOf (exec .crc16Finalize { refState with acc16 := .val 0xA87A#16 }) = some (.bytes [0xA8#8, 0x7A#8]) := by decide
/-- Section 2.7: each of the four uses of `⊥` is the model fault; it is recorded. -/
theorem test_unwritten :
    recordOf (exec (.crc8Update [0x00#8]) State.reset) = some true ∧ recordOf (exec .crc8Finalize State.reset) = some true ∧
    recordOf (exec (.crc16Update []) State.reset) = some true ∧ recordOf (exec .crc16Finalize State.reset) = some true := by
  decide
/-- Section 2.7: FINALIZE of a value is no fault; R94: a recorded fault stays. -/
theorem test_unwritten_reset :
    recordOf (exec .crc8Finalize { State.reset with acc8 := .val 0x00#8 }) = some false ∧
    recordOf (exec .crc8Reset { State.reset with unwrittenAcc := true }) = some true ∧
    recordOf (runInput .resetCore { State.reset with unwrittenAcc := true }) = some true := by decide
/-- R94: from `⊥` the hardware computes from what the register holds (section 2.3's step, were C1B2 what it holds). -/
theorem test_unwritten_held :
    resultOf (exec (.crc16Update [0x08#8]) { refState with acc16 := .bottom 0xC1B2#16 }) = some (.value16 0xFA65#16) := by
  decide +kernel
theorem test_checksum8 : resultOf (runInput (.checksum8 check9) refState) = some (.value8 0xF4#8) := by decide +kernel
/-- Table 2.1, CRC16_ALT. -/
theorem test_checksum16 :
    resultOf (runInput (.checksum16 check9) { refState with cfg := { refCfg with crc16 := Config.crc16Alt } }) =
      some (.value16 0x31C3#16) := by decide +kernel

/-! ### FrameCodec -/

/-- V3.6. -/
theorem test_encode_reserved :
    resultOf (exec (.encode [0xF1#8, 0xFA#8] [0xFF#8]) shutState) =
      some (.bytes [0xF1#8, 0xFF#8, 0xF1#8, 0xFF#8, 0xFA#8, 0xFF#8, 0xFF#8, 0xFA#8]) := by decide
/-- V3.7. -/
theorem test_encode_neighbours :
    resultOf (exec (.encode [0x00#8, 0xF0#8, 0xF2#8, 0xF9#8, 0xFB#8, 0xFE#8] []) shutState) =
      some (.bytes [0xF1#8, 0x00#8, 0xF0#8, 0xF2#8, 0xF9#8, 0xFB#8, 0xFE#8, 0xFA#8]) := by decide
/-- P4. -/
theorem test_decode_stream :
    resultOf (exec (.decode [0x55#8, 0xF1#8, 0x10#8, 0xF1#8, 0x11#8, 0xFF#8, 0x12#8, 0x13#8, 0xFA#8, 0xF1#8, 0x20#8, 0xFF#8,
      0xFA#8, 0x21#8, 0xFA#8, 0xFA#8]) shutState) =
      some (.events [.framingError .unexpectedStart, .framingError .invalidEscape, .msg [0x20#8, 0xFA#8, 0x21#8]]) := by
  decide +kernel
/-- V3.14. -/
theorem test_decode_fromEscaped :
    resultOf (exec (.decode [0xF1#8, 0x02#8, 0x03#8, 0xFA#8]) (decoderIn .escaped [0x01#8])) =
      some (.events [.msg [0x01#8, 0xF1#8, 0x02#8, 0x03#8]]) := by decide
/-- V3.10, row 8. -/
theorem test_start_unexpected :
    (out (exec .startSym (decoderIn .accumulating [0x01#8, 0x02#8]))).map (fun t => (t.dec, t.result)) =
      some ({ state := .accumulating, buf := [] }, .events [.framingError .unexpectedStart]) := by decide
/-- V3.8, last row; V3.13: escaped, END is a literal. -/
theorem test_end :
    (out (exec .endSym (decoderIn .accumulating [0x7E#8]))).map (fun t => (t.dec, t.result)) =
      some ({ state := .waitingForStart, buf := [] }, .events [.msg [0x7E#8]]) ∧
    (out (exec .endSym (decoderIn .escaped [0x01#8]))).map (fun t => t.dec) =
      some { state := .accumulating, buf := [0x01#8, 0xFA#8] } := by decide
/-- V3.8, row 3; V3.10, row 3. -/
theorem test_escape :
    (out (exec .escapeSym (decoderIn .accumulating [0x01#8]))).map (fun t => t.dec) =
      some { state := .escaped, buf := [0x01#8] } ∧
    (out (exec .escapeSym (decoderIn .waitingForStart []))).map (fun t => t.dec) =
      some { state := .waitingForStart, buf := [] } := by decide
/-- V3.8, row 2. -/
theorem test_literal_appended :
    (out (exec (.literal 0x7E#8) (decoderIn .accumulating [0xFF#8]))).map (fun t => t.dec) =
      some { state := .accumulating, buf := [0xFF#8, 0x7E#8] } := by decide
/-- V3.11. -/
theorem test_literal_invalidEscape :
    (out (exec (.literal 0x12#8) (decoderIn .escaped [0x10#8, 0x11#8]))).map (fun t => (t.dec, t.result)) =
      some ({ state := .waitingForStart, buf := [] }, .events [.framingError .invalidEscape]) := by decide
/-- V3.8, rows 3 and 4; R79. -/
theorem test_escStart :
    (out (exec .escStart (decoderIn .accumulating [0x01#8]))).map (fun t => t.dec) =
      some { state := .accumulating, buf := [0x01#8, 0xF1#8] } ∧
    (out (exec .escStart (decoderIn .waitingForStart []))).map (fun t => t.dec) =
      some { state := .accumulating, buf := [] } := by decide
/-- V3.13. -/
theorem test_escEnd :
    (out (exec .escEnd (decoderIn .accumulating [0x01#8]))).map (fun t => (t.dec, t.result)) =
      some ({ state := .accumulating, buf := [0x01#8, 0xFA#8] }, .events []) := by decide
/-- V3.8, rows 7 and 8. -/
theorem test_escEsc :
    (out (exec .escEsc (decoderIn .accumulating [0x01#8]))).map (fun t => t.dec) =
      some { state := .accumulating, buf := [0x01#8, 0xFF#8] } := by decide
/-- R182. -/
theorem test_gate :
    refusalIn (exec .startSym shutState) = some .notConnected ∧
    refusalIn (runInput (.deliver []) shutState) = some .notConnected ∧
    refusalIn (runInput (.sendMsg []) shutState) = some .notConnected := by decide
/-- V3.17. -/
theorem test_sendMsg :
    resultOf (runInput (.sendMsg [0x02#8, 0x08#8, 0xF1#8, 0x00#8]) refState) =
      some (.bytes [0xF1#8, 0x02#8, 0x08#8, 0xFF#8, 0xF1#8, 0x00#8, 0xE0#8, 0xF9#8, 0xFA#8]) := by decide +kernel
/-- V3.17, no trailer. -/
theorem test_sendMsg_plain :
    (out (runInput (.sendMsg [0x01#8, 0x10#8, 0x05#8]) { refState with cfg := { refCfg with trailer16 := false }, tx := [0x7E#8] })).map
      (fun t => t.tx) = some [0x7E#8, 0xF1#8, 0x01#8, 0x10#8, 0x05#8, 0xFA#8] := by decide +kernel
/-- V3.18. -/
theorem test_checkMsg :
    resultOf (runInput (.checkMsg [0x01#8, 0x10#8, 0x05#8, 0xA8#8, 0x7A#8]) shutState) = some (.okMessage [0x01#8, 0x10#8, 0x05#8]) ∧
    resultOf (runInput (.checkMsg [0x01#8, 0x10#8, 0x05#8, 0xA8#8, 0x7B#8]) shutState) = some (.err .checksum) := by
  decide +kernel
/-- V3.18, CRC16_ALT: the empty string has checksum 0000 and is still too short. -/
theorem test_checkMsg_short :
    resultOf (runInput (.checkMsg []) { shutState with cfg := { refCfg with crc16 := Config.crc16Alt } }) = some (.err .checksum) ∧
    resultOf (runInput (.checkMsg [0x00#8, 0x00#8]) { shutState with cfg := { refCfg with crc16 := Config.crc16Alt } }) =
      some (.okMessage []) := by decide +kernel
/-- P2, step 8: the fields of the message. -/
theorem test_messageFields :
    messageFields [0x02#8, 0x08#8, 0xF1#8, 0x00#8] = some (0x02#8, 0x08#8, [0xF1#8, 0x00#8]) ∧ messageFields [0x02#8] = none := by
  decide

/-! ### RegisterTransactionLayer -/

/-- Table 4.2, row 1; P1, step 7. -/
theorem test_writeReg :
    (out (exec (.writeReg 0x11 0x08 [0x05#8]) (answered .busOk))).map (fun t => (t.busLog, t.result, t.acc8.isBottom)) =
      some ([.write 0x11#7 [0x08#8, 0x05#8, 0x26#8]], .ok, true) := by decide +kernel
/-- Table 4.2, rows 2 and 5. -/
theorem test_writeReg_fails :
    (out (exec (.writeReg 0x7F 0x00 [0xFF#8]) (answered .busFail))).map (fun t => (t.busLog, t.result)) =
      some ([.write 0x7F#7 [0x00#8, 0xFF#8, 0xB3#8]], .err .bus) := by decide +kernel
/-- Table 4.2, last row. -/
theorem test_readReg :
    (out (exec (.readReg 0x50 0x10 2) (answered (.busData [0x12#8, 0x34#8, 0x46#8])))).map (fun t => (t.busLog, t.result)) =
      some ([.read 0x50#7 0x10#8 3], .okData [0x12#8, 0x34#8]) := by decide +kernel
/-- Table 4.2: a corrupted data byte. -/
theorem test_readReg_corrupted :
    resultOf (exec (.readReg 0x11 0x08 1) (answered (.busData [0x04#8, 0x39#8]))) = some (.err .checksum) := by decide +kernel
/-- Section 4.3, the 17 wire bytes. -/
theorem test_writeMulti :
    (out (exec (.writeMulti 0x11 0x20 [2, 1, 1, 1, 1, 1, 2]
      [0x01#8, 0x02#8, 0x03#8, 0x04#8, 0x05#8, 0x06#8, 0x07#8, 0x08#8, 0x09#8]) (answered .busOk))).map (fun t => (t.busLog, t.result)) =
      some ([.write 0x11#7 [0x20#8, 0x01#8, 0x02#8, 0xBA#8, 0x03#8, 0x09#8, 0x04#8, 0x1C#8, 0x05#8, 0x1B#8, 0x06#8, 0x12#8,
        0x07#8, 0x15#8, 0x08#8, 0x09#8, 0x97#8]], .ok) := by decide +kernel
/-- Section 4.3: a zero-size register. -/
theorem test_writeMulti_zeroSize :
    (out (exec (.writeMulti 0x11 0x30 [1, 0, 1] [0xAA#8, 0xBB#8]) (answered .busOk))).map (fun t => t.busLog) =
      some [.write 0x11#7 [0x30#8, 0xAA#8, 0x33#8, 0x00#8, 0xBB#8, 0x28#8]] := by decide +kernel
/-- Section 4.3, the correct stream. -/
theorem test_readMulti :
    (out (exec (.readMulti 0x11 0x20 [2, 1, 1, 1, 1, 1, 2] 9) (answered (.busData [0x01#8, 0x02#8, 0x8B#8, 0x03#8, 0x09#8, 0x04#8,
      0x1C#8, 0x05#8, 0x1B#8, 0x06#8, 0x12#8, 0x07#8, 0x15#8, 0x08#8, 0x09#8, 0x97#8])))).map (fun t => (t.busLog, t.result)) =
      some ([.read 0x11#7 0x20#8 16],
        .okData [0x01#8, 0x02#8, 0x03#8, 0x04#8, 0x05#8, 0x06#8, 0x07#8, 0x08#8, 0x09#8]) := by decide +kernel
/-- Section 4.3, the corrupted stream (byte 6), and a request that is not well formed. -/
theorem test_readMulti_fails :
    resultOf (exec (.readMulti 0x11 0x20 [2, 1, 1, 1, 1, 1, 2] 9) (answered (.busData [0x01#8, 0x02#8, 0x8B#8, 0x03#8, 0x09#8,
      0x04#8, 0x1D#8, 0x05#8, 0x1B#8, 0x06#8, 0x12#8, 0x07#8, 0x15#8, 0x08#8, 0x09#8, 0x97#8]))) = some (.err .checksum) ∧
    resultOf (exec (.readMulti 0x11 0x20 [2, 1] 4) (answered .busFail)) = some (.err .protocolViolation) := by decide +kernel
theorem test_operandRange :
    refusalIn (exec (.writeReg 0x80 0x08 [0x05#8]) shutState) = some .operandRange ∧
    refusalIn (exec (.writeReg 0x7F 0x08 [0x05#8]) shutState) = some .notConnected := by decide
/-- Section 4.2: dev 50 gives A0, dev 7F gives FF. -/
theorem test_addr :
    resultOf (exec (.addrW 0x50#7) refState) = some (.bytes [0xA0#8]) ∧
    resultOf (exec (.addrR 0x7F#7) refState) = some (.bytes [0xFF#8]) := by decide

/-! ### Session and status -/

/-- E7 of section 1, and R179. -/
theorem test_session :
    ((((Session.closed.connect 1 7 true).connect 2 7 false).disconnect 1).port = some 7) ∧
    ((((Session.closed.connect 1 7 true).connect 2 7 false).disconnect 1).disconnect 2 = Session.closed) ∧
    ((Session.closed.connect 1 7 true).connect 2 8 true = Session.closed.connect 1 7 true) ∧
    ((Session.closed.connect 1 7 true).disconnect 9 = Session.closed.connect 1 7 true) := by decide
/-- R154, R173: the codes of errors, and the host's count. -/
theorem test_codes :
    (Result.err .checksum).code = 3 ∧ (Result.err .bus).code = 4 ∧ (Result.err .protocolViolation).code = 5 ∧
    (ErrorClass.framing .unexpectedStart).code = 1 ∧ (ErrorClass.framing .invalidEscape).code = 2 ∧ Result.ok.code = 0 ∧
    hostErrorCount 2 (.err .bus) = 3 ∧ hostErrorCount 2 .ok = 0 ∧ hostErrorCount 2 (.events []) = 2 := by decide

/-! ### Witnesses: the hypotheses of each statement are met, clause by clause, at the ends of their ranges -/

theorem witness_Crc8ResetLoadsInit :
    refState.cfg.crc8 = Config.crc8Ref ∧ refState.acc8.isBottom = true ∧
    ∃ t, exec .crc8Reset refState = .next t ∧ t.acc8.isBottom = false := ⟨rfl, rfl, _, rfl, rfl⟩
theorem witness_Crc16ResetLoadsInit :
    refState.cfg.crc16 = Config.crc16Ref ∧ refState.acc16.isBottom = true ∧
    ∃ t, exec .crc16Reset refState = .next t ∧ t.acc16.isBottom = false := ⟨rfl, rfl, _, rfl, rfl⟩
/-- For the two UPDATE and the two FINALIZE statements: an accumulator that holds `⊥`, and one that holds a value. -/
theorem witness_accumulators :
    (refState.acc8.isBottom = true ∧ (∃ t, exec (.crc8Update []) refState = .next t) ∧ ∃ t, exec .crc8Finalize refState = .next t) ∧
    (refState.acc16.isBottom = true ∧ (∃ t, exec (.crc16Update []) refState = .next t) ∧
      ∃ t, exec .crc16Finalize refState = .next t) ∧
    (Acc.val 0x00#8 : Acc 8) = ({ refState with acc8 := .val 0x00#8 } : State).acc8 ∧
    (Acc.val 0xFFFF#16 : Acc 16) = ({ refState with acc16 := .val 0xFFFF#16 } : State).acc16 :=
  ⟨⟨rfl, ⟨_, rfl⟩, ⟨_, rfl⟩⟩, ⟨rfl, ⟨_, rfl⟩, ⟨_, rfl⟩⟩, rfl, rfl⟩
theorem witness_FaultExactlyOnUnwrittenAccumulator :
    (∃ t, exec .crc8Finalize refState = .next t ∧ t.unwrittenAcc = true) ∧
    (∃ t, exec (.crc8Update []) { refState with acc8 := .val 0x00#8 } = .next t ∧ t.unwrittenAcc = false) ∧
    (∃ held, refState.acc8 = .bottom held) ∧ (∃ held, refState.acc16 = .bottom held) ∧
    (∃ s t, s.unwrittenAcc = true ∧ core.run 1 s = .next t) ∧
    (∃ t, runInput (.sendMsg []) refState = .next t) ∧ (∀ c, Input.sendMsg [] ≠ .code c) ∧
    (∃ t, exec .crc8Reset refState = .next t) ∧ (∃ t, exec .crc16Reset refState = .next t) :=
  ⟨⟨_, rfl, rfl⟩, ⟨_, rfl, rfl⟩, ⟨_, rfl⟩, ⟨_, rfl⟩, ⟨{ refState with unwrittenAcc := true }, _, rfl, rfl⟩, ⟨_, rfl⟩, (by intro c h; cases h),
    ⟨_, rfl⟩, ⟨_, rfl⟩⟩
theorem witness_CrcHelpers : (0 : Nat) < 8 ∧ (15 : Nat) < 16 := by decide
/-- For the shift register and for the polynomial division: the two widths of this hardware. -/
theorem witness_CrcStep : (8 : Nat) ≤ 8 ∧ (8 : Nat) ≤ 16 := by decide
theorem witness_UpdateChunkingLaw :
    (∃ t, exec (.crc8Update [0x00#8]) refState = .next t) ∧
    (∃ t, exec (.crc8Update []) { refState with acc8 := .val 0x00#8 } = .next t) ∧
    (∃ t, exec (.crc16Update [0x01#8]) { refState with acc16 := .val 0xFFFF#16 } = .next t) :=
  ⟨⟨_, rfl⟩, ⟨_, rfl⟩, ⟨_, rfl⟩⟩
theorem witness_ZeroResidueSufficientConditions :
    (Config.crc8Ref.xorout = 0#8 ∧ Config.crc8Ref.refin = false ∧ Config.crc8Ref.refout = false) ∧
    (Config.crc16Ref.xorout = 0#16 ∧ Config.crc16Ref.refin = false ∧ Config.crc16Ref.refout = false) ∧
    (Config.crc8Alt.xorout = 0#8 ∧ Config.crc8Alt.refin = true ∧ Config.crc8Alt.refout = true) := by decide
theorem witness_ZeroResidueFailsForTheNamedTuples :
    (∃ p : CrcParams 8, p.poly = 0x07#8 ∧ p.init = 0xFF#8 ∧ p.xorout = 0x55#8) ∧
    (∃ p : CrcParams 8, p.poly = 0x07#8 ∧ p.init = 0#8 ∧ p.xorout = 0#8 ∧ p.refin ≠ p.refout) ∧
    (∃ p : CrcParams 16, p.poly = 0x1021#16 ∧ p.init = 0xFFFF#16 ∧ p.xorout = 0xFFFF#16) ∧
    (∃ p : CrcParams 16, p.poly = 0x1021#16 ∧ p.init = 0#16 ∧ p.xorout = 0#16 ∧ p.refin = true) :=
  ⟨⟨⟨0x07#8, 0xFF#8, 0x55#8, false, false⟩, by decide⟩, ⟨⟨0x07#8, 0#8, 0#8, true, false⟩, by decide⟩,
    ⟨⟨0x1021#16, 0xFFFF#16, 0xFFFF#16, false, false⟩, by decide⟩, ⟨⟨0x1021#16, 0#16, 0#16, true, true⟩, by decide⟩⟩
/-- Section 2.6: the first bit of the first byte at 8 bits, the last bit of the last byte at 16 bits. -/
theorem witness_SingleBitFlipIsDetected :
    (Config.crc8Ref.poly.getLsbD 0 = true ∧ crc Config.crc8Ref ([] ++ 0x22#8 :: [0x08#8, 0x05#8, 0x26#8]) = 0#8) ∧
    (Config.crc16Ref.poly.getLsbD 0 = true ∧
      crc Config.crc16Ref ([0x01#8, 0x10#8, 0x05#8, 0xA8#8] ++ 0x7A#8 :: []) = 0#16) := by decide +kernel
theorem witness_EncodeWritesTheFrame :
    ∀ b ∈ ([0xF1#8, 0xFA#8, 0xFF#8] : List Byte), b = 0xF1#8 ∨ b = 0xFA#8 ∨ b = 0xFF#8 := by decide
theorem witness_EncodeOutputShapeAndInjectivity :
    encodeFrame [0xF1#8] [0x01#8] = encodeFrame [] [0xF1#8, 0x01#8] := by decide
theorem witness_receivedBytes :
    (∀ d ∈ ([.waitingForStart, .accumulating, .escaped] : List DecState),
      (decoderIn d []).session.port.isSome = true ∧ (decoderIn d []).dec.state = d) ∧
    (∀ b ∈ ([0x00#8, 0xF0#8, 0xF2#8, 0xF9#8, 0xFB#8, 0xFE#8] : List Byte), b ≠ 0xF1#8 ∧ b ≠ 0xFA#8 ∧ b ≠ 0xFF#8) := by decide
theorem witness_ReceivedBytesNeedAnOpenSession :
    shutState.session.port = none ∧ Instr.startSym.wellFormed = true ∧ (Instr.literal 0x00#8).wellFormed = true ∧
    Instr.escEsc.wellFormed = true := by decide
theorem witness_DecodeAppliesOneTransitionPerByte : refState.session.port.isSome = true := by decide
theorem witness_AtMostOneEventPerByte :
    Event.framingError .unexpectedStart ∈ (dstep { state := .accumulating, buf := [] } 0xF1#8).2 ∧
    Event.msg [] ∈ (dstep { state := .accumulating, buf := [] } 0xFA#8).2 ∧
    Event.framingError .invalidEscape ∈ (dstep { state := .escaped, buf := [] } 0x00#8).2 ∧
    resultOf (exec (.decode [0xF1#8, 0xFA#8]) refState) = some (.events [.msg []]) := by decide
/-- V3.11 (R without START), V3.12 (R empty, then a START of an abandoned escape pair). -/
theorem witness_ResynchronisationAfterInvalidEscape :
    refState.dec.state = .waitingForStart ∧ (0x12#8 : Byte) ≠ 0xF1#8 ∧ (0x12#8 : Byte) ≠ 0xFA#8 ∧ (0x12#8 : Byte) ≠ 0xFF#8 ∧
    (0xF1#8 : Byte) ∉ ([0x13#8, 0xFA#8] : ByteString) ∧ (0xF1#8 : Byte) ∉ ([] : ByteString) := by decide
theorem witness_SendMsgFramesTheMessage :
    refState.session.port.isSome = true ∧ refState.cfg.trailer16 = true ∧
    ({ refState with cfg := { refCfg with trailer16 := false } } : State).cfg.trailer16 = false := by decide
/-- V3.18: lengths 0 and 1, length 2 with a wrong and with a right trailer. -/
theorem witness_CheckMsgVerifiesTheTrailer :
    ([] : ByteString).length < 2 ∧ ([0x00#8] : ByteString).length < 2 ∧ 2 ≤ ([0x00#8, 0x00#8] : ByteString).length ∧
    crc refCfg.crc16 [0x00#8, 0x00#8] ≠ 0#16 ∧ crc refCfg.crc16 ([] ++ [0xFF#8, 0xFF#8]) = 0#16 := by decide +kernel
/-- The premises about a legal configuration, an open session and a waiting decoder, together. -/
theorem witness_MessageSentIsMessageDelivered :
    ZeroResidue refState.cfg.crc16 ∧ refState.session.port.isSome = true ∧ refState.dec.state = .waitingForStart :=
  ⟨crc16Ref_zeroResidue, rfl, rfl⟩
theorem witness_AddressingBytes : (0 : Nat) < 7 ∧ (6 : Nat) < 7 := by decide
theorem witness_WriteRegSendsOneCheckedString :
    (answered .busOk).session.port.isSome = true ∧ (answered .busOk).replies = .busOk :: [] ∧
    (answered .busFail).replies = .busFail :: [] ∧ refState.replies = [] := by decide
theorem witness_WriteRegWireHasZeroResidue :
    ZeroResidue (answered .busOk).cfg.crc8 ∧ ∃ t, exec (.writeReg (0x11#7).toNat (0x08#8).toNat []) (answered .busOk) = .next t :=
  ⟨crc8Ref_zeroResidue, ⟨_, rfl⟩⟩
/-- Table 4.2: length 0 with a right byte, length 1 with a wrong one, a failure, an answer that is too short. -/
theorem witness_ReadRegVerifiesAllReceivedBytes :
    (answered .busFail).session.port.isSome = true ∧
    (([] : ByteString).length = 0 ∧ (answered (.busData ([] ++ [0xD4#8]))).replies = .busData ([] ++ [0xD4#8]) :: [] ∧
      crc refCfg.crc8 ([0x22#8, 0x08#8, 0x23#8] ++ [] ++ [0xD4#8]) = 0#8) ∧
    (([0x05#8, 0x38#8] : ByteString).length = 1 + 1 ∧ crc refCfg.crc8 ([0x22#8, 0x08#8, 0x23#8] ++ [0x05#8, 0x38#8]) ≠ 0#8) ∧
    (answered .busFail).replies = .busFail :: [] ∧ refState.replies = [] := by decide +kernel
/-- A write answered with bytes; a read of one byte answered with none, and with `BusOk`. -/
theorem witness_UnexpectedBusAnswerIsBusError :
    (answered (.busData [])).session.port.isSome = true ∧ (answered (.busData [])).replies = .busData [] :: [] ∧
    ([0] : List Nat) ≠ [] ∧ ([0] : List Nat).sum = ([] : ByteString).length ∧ ([] : ByteString).length ≠ 0 + 1 ∧
    ([] : ByteString).length ≠ ([0] : List Nat).sum + ([0] : List Nat).length ∧
    (answered .busOk).replies = .busOk :: [] := by decide
/-- One zero-size register, and the seven registers of section 4.3. -/
theorem witness_multiRegisterRequests :
    refState.session.port.isSome = true ∧ ([0] : List Nat) ≠ [] ∧ ([0] : List Nat).sum = ([] : ByteString).length ∧
    ([2, 1, 1, 1, 1, 1, 2] : List Nat).sum = 9 ∧ (0 : Nat) < ([0] : List Nat).length ∧
    (6 : Nat) < ([2, 1, 1, 1, 1, 1, 2] : List Nat).length ∧ refState.replies = [] ∧
    (answered .busOk).replies = .busOk :: [] ∧ (answered .busFail).replies = .busFail :: [] := by decide
/-- Section 4.3, `READ_MULTI(0x11, 0x20, [2, 1], 3)`: both blocks verify; the second fails; the call fails. -/
theorem witness_ReadMultiVerifiesEveryBlock :
    ([0x01#8, 0x02#8, 0x8B#8, 0x03#8, 0x09#8] : ByteString).length = 3 + [2, 1].length ∧
    crc refCfg.crc8 ([0x22#8, 0x20#8, 0x23#8] ++ [0x01#8, 0x02#8, 0x8B#8]) = 0#8 ∧
    crc refCfg.crc8 ([] ++ [0x03#8, 0x09#8]) = 0#8 ∧ crc refCfg.crc8 ([] ++ [0x03#8, 0x08#8]) ≠ 0#8 ∧
    (answered (.busData [0x01#8, 0x02#8, 0x8B#8, 0x03#8, 0x09#8])).replies =
      .busData [0x01#8, 0x02#8, 0x8B#8, 0x03#8, 0x09#8] :: [] := by decide +kernel
/-- The ill-formed requests of section 4.3: no register, and a sum of 3 against a length of 2 and of 4. -/
theorem witness_illFormedRequests :
    ([] : List Nat) = [] ∧ ([2, 1] : List Nat).sum ≠ ([0x01#8, 0x02#8] : ByteString).length ∧ ([2, 1] : List Nat).sum ≠ 4 := by
  decide
theorem witness_ReadMultiIsAllOrNothing :
    (∃ t, exec (.readMulti 0x11 0x20 [2, 1] 3) (answered (.busData [0x01#8, 0x02#8, 0x8B#8, 0x03#8, 0x09#8])) = .next t ∧
      t.result = .okData [0x01#8, 0x02#8, 0x03#8]) ∧
    (∃ t, exec (.readMulti 0x11 0x20 [2, 1] 3) (answered .busFail) = .next t ∧ t.result = .err .bus) :=
  ⟨⟨_, rfl, by decide +kernel⟩, ⟨_, rfl, by decide +kernel⟩⟩
/-- For the statements about what a transaction, an error, an outcome and the frame allow. -/
theorem witness_transactions :
    (∃ t, exec (.writeReg 0x11 0x08 []) (answered .busFail) = .next t ∧ t.result = .err .bus) ∧
    (∃ t, exec (.readReg 0x11 0x08 1) (answered (.busData [0x05#8, 0x38#8])) = .next t ∧ t.result = .err .checksum) ∧
    (∃ t, exec (.writeMulti 0x11 0x20 [] []) refState = .next t ∧ t.result = .err .protocolViolation) :=
  ⟨⟨_, rfl, by decide +kernel⟩, ⟨_, rfl, by decide +kernel⟩, ⟨_, rfl, by decide +kernel⟩⟩
theorem witness_ErrorsChangeExactlyWhatTheTableSays :
    (decoderIn .accumulating [0x01#8]).dec.state = .accumulating ∧ (decoderIn .escaped []).dec.state = .escaped ∧
    ∃ t, runInput (.checkMsg []) refState = .next t ∧ t.result = .err .checksum := ⟨rfl, rfl, ⟨_, rfl, by decide +kernel⟩⟩
theorem witness_OutcomesOfEachOperation :
    (∃ t, runInput (.sendMsg []) refState = .next t) ∧ (∃ t, runInput (.checkMsg [0x00#8]) refState = .next t) ∧
    ∃ t, exec .startSym (decoderIn .accumulating []) = .next t ∧ t.result = .events [.framingError .unexpectedStart] :=
  ⟨⟨_, rfl⟩, ⟨_, rfl⟩, ⟨_, rfl, by decide⟩⟩
theorem witness_OrderOfConditionsInATransaction :
    (128 ≤ (128 : Nat)) ∧ (256 ≤ (256 : Nat)) ∧ ((127 : Nat) < 128 ∧ (255 : Nat) < 256 ∧ shutState.session.port = none) ∧
    (answered .busOk).session.port.isSome = true ∧ ([] : List Nat) = [] ∧
    ([2, 1] : List Nat).sum ≠ ([0x01#8, 0x02#8] : ByteString).length ∧ ([2, 1] : List Nat).sum ≠ 4 := by decide
/-- The read of section 4.3 with two registers, from a device that answers as R152 expects. -/
theorem witness_ReadBackFromACorrectDevice :
    let s := answered (.busData [0x01#8, 0x02#8, 0x8B#8, 0x03#8, 0x09#8])
    let data : ByteString := [0x01#8, 0x02#8, 0x03#8]
    let seg : Nat → ByteString := fun i => (data.drop (([2, 1] : List Nat).take i).sum).take (([2, 1] : List Nat).getD i 0)
    let lead : Nat → ByteString := fun i =>
      if i = 0 then [BitVec.ofNat 8 (2 * (0x11#7).toNat), 0x20#8, BitVec.ofNat 8 (2 * (0x11#7).toNat + 1)] else []
    ZeroResidue s.cfg.crc8 ∧ s.session.port.isSome = true ∧ ([2, 1] : List Nat) ≠ [] ∧ ([2, 1] : List Nat).sum = data.length ∧
    s.replies = .busData ((List.range 2).flatMap (fun i => seg i ++ [crc s.cfg.crc8 (lead i ++ seg i)])) :: [] :=
  ⟨crc8Ref_zeroResidue, rfl, by decide, by decide, by decide +kernel⟩
/-- Nobody connected; one consumer on port 7; two consumers on port 7. -/
theorem witness_sessions :
    sessionInv shutState.session ∧ shutState.session.port = none ∧
    sessionInv { port := some 7, consumers := [1] } ∧ (∀ x ∈ [1], x = 1) ∧
    sessionInv { port := some 7, consumers := [1, 2] } ∧ (∃ x ∈ [1, 2], x ≠ 1) ∧ 7 ≠ 8 ∧ 9 ∉ [1, 2] := by
  simp [sessionInv, shutState, State.reset, Session.closed]
theorem witness_StepRunsTheDecodedInstruction :
    ({ refState with input := [.code (.pair 0xFF#8 0xFA#8)] } : State).input = .code (.pair 0xFF#8 0xFA#8) :: [] ∧
    decode (.pair 0xFF#8 0xFA#8) = .ok .escEnd := ⟨rfl, rfl⟩
theorem witness_FetchWordRunsTheTableInstruction : decodeTableWord 16 0xFFFF = some .escEsc ∧ decodeTableWord 0 0 = some (.literal 0#8) := by
  decide
theorem witness_StepTakesOneInput :
    shutState.input = [] ∧ ∃ t, step { shutState with input := [.resetCore] } = .next t := ⟨rfl, ⟨_, rfl⟩⟩
theorem witness_ReservedCommandsAreRefused :
    ∀ op ∈ ([0x00#8, 0x0F#8, 0x13#8, 0x1F#8, 0x23#8, 0x2F#8, 0x32#8, 0x3F#8, 0x44#8, 0xFF#8] : List Byte),
      op ∉ ([0x10#8, 0x11#8, 0x12#8, 0x20#8, 0x21#8, 0x22#8, 0x30#8, 0x31#8, 0x40#8, 0x41#8, 0x42#8, 0x43#8] : List Byte) := by
  decide
theorem witness_DecodeAndEncodeAgree :
    (Instr.readMulti 127 255 [] 0).wellFormed = true ∧ (Instr.addrR 127#7).wellFormed = true ∧
    (∀ op a, Code.addr 0xFF#8 ≠ .cmd op a) ∧ decode (.addr 0xFF#8) = .ok (.addrR 127#7) :=
  ⟨by decide, by decide, (by intro op a h; cases h), rfl⟩
/-- A state that has the invariant, with a frame partly received, a session open and a next state. -/
theorem witness_EveryStepKeepsTheInvariant :
    ∃ s t, stateInv s ∧ s.dec.buf ≠ [] ∧ step s = .next t :=
  ⟨{ decoderIn .accumulating [0x01#8] with input := [.deliver [0xFA#8]] }, _,
    ⟨(by intro h; cases h), (by simp [sessionInv, decoderIn, refState])⟩, by decide, rfl⟩
theorem witness_ConfigurationNeverChanges :
    (∃ t, exec .crc8Reset refState = .next t) ∧ ∃ t, step { refState with input := [.resetCore] } = .next t := ⟨⟨_, rfl⟩, ⟨_, rfl⟩⟩
theorem witness_PastResultsDoNotMatter : ∃ t, exec (.writeReg 0x11 0x08 [0x05#8]) (answered .busOk) = .next t := ⟨_, rfl⟩
theorem witness_EveryInstructionsFrame :
    (∃ t, exec .crc16Reset refState = .next t) ∧ (∃ t, exec (.addrW 0#7) refState = .next t) ∧
    (∃ t, exec .escEsc refState = .next t) ∧ ∃ t, exec (.readMulti 0x11 0x20 [1] 1) (answered .busFail) = .next t :=
  ⟨⟨_, rfl⟩, ⟨_, rfl⟩, ⟨_, rfl⟩, ⟨_, rfl⟩⟩

end Sys2Proof.Tests
end

/-! ### The state after reset (R33 to R36), and what it fixes -/

section
namespace Sys2Proof.Machine

@[simp] theorem State.reset_dec : State.reset.dec = .reset := rfl
@[simp] theorem State.reset_acc8 : State.reset.acc8 = .bottom (Config.freeAcc8 0) := rfl
@[simp] theorem State.reset_acc16 : State.reset.acc16 = .bottom (Config.freeAcc16 0) := rfl
@[simp] theorem State.reset_session : State.reset.session = .closed := rfl

@[simp] theorem Decoder.reset_state : Decoder.reset.state = .waitingForStart := rfl
@[simp] theorem Decoder.reset_buf : Decoder.reset.buf = [] := rfl

@[simp] theorem Session.closed_port : Session.closed.port = none := rfl
@[simp] theorem Session.closed_consumers : Session.closed.consumers = [] := rfl

/-- Settles O48: the decoder (R34), then the two accumulators (R35), then the session (R36), each read off the state that
reset leaves. -/
theorem resetValues : Obligations.ResetValues := by
  unfold Obligations.ResetValues
  refine ⟨?decState, ?decBuf, ?acc8, ?acc16, ?port, ?consumers⟩
  case decState => rw [State.reset_dec, Decoder.reset_state]
  case decBuf => rw [State.reset_dec, Decoder.reset_buf]
  case acc8 => rw [State.reset_acc8, Acc.isBottom_bottom]
  case acc16 => rw [State.reset_acc16, Acc.isBottom_bottom]
  case port => rw [State.reset_session, Session.closed_port]
  case consumers => rw [State.reset_session, Session.closed_consumers]

end Sys2Proof.Machine
end

/-! ### What WRITE_REG puts on the bus (R65), and the reserved operation codes (R76) -/

section
namespace Sys2Proof.Machine

/-- The write addressing byte is the device address shifted left by one, read as a number (R67). -/
theorem addrByteW_eq_ofNat (dev : DevAddr) : addrByteW dev = BitVec.ofNat 8 (2 * dev.toNat) := by
  have hdev : dev.toNat < 128 := dev.isLt
  apply BitVec.eq_of_toNat_eq
  simp only [addrByteW, BitVec.toNat_shiftLeft, BitVec.toNat_setWidth, BitVec.toNat_ofNat, Nat.shiftLeft_eq]
  omega

/-- The 8-bit case of ZeroResidue, with the checksum as the one byte it is (R97). -/
theorem ZeroResidue.crc_append_crc {p : CrcParams 8} (hz : ZeroResidue p) (B : ByteString) :
    crc p (B ++ [crc p B]) = 0#8 := by
  rw [← csum_eight]
  exact hz B

theorem writeRegWire_eq (p : CrcParams 8) (dev : DevAddr) (reg : Byte) (data : ByteString) :
    writeRegWire p dev reg data = [reg] ++ data ++ [crc p (preW dev reg ++ data)] := by
  rw [writeRegWire, csum_eight]

/-- Whatever the bus answers, a write is one call on the bus (R148). -/
@[simp] theorem State.writeTransaction_busLog (s : State) (dev : DevAddr) (W : ByteString) :
    (s.writeTransaction dev W).busLog = s.busLog ++ [.write dev W] := by
  obtain ⟨-, h⟩ | ⟨-, h⟩ := writeTransaction_cases s dev W <;> rw [h]

/-- WRITE_REG completes exactly when a session is open, and its effect is one write of the wire string WR1 (R134). -/
theorem exec_writeReg_next_iff (s t : State) (dev : DevAddr) (reg : Byte) (data : ByteString) :
    exec (.writeReg dev.toNat reg.toNat data) s = .next t ↔
      s.session.port.isSome = true ∧ s.writeTransaction dev (writeRegWire s.cfg.crc8 dev reg data) = t := by
  have hexec : exec (.writeReg dev.toNat reg.toNat data) s = execWriteReg dev.toNat reg.toNat data s := rfl
  have hdev : dev.toNat < 128 := dev.isLt
  have hreg : reg.toNat < 256 := reg.isLt
  rw [hexec, execWriteReg, transaction_next_iff]
  simp [hdev, hreg]

/-- Settles O33: the byte behind the data is the CRC of exactly the string in front of it, address byte included, so a
legal CFG.CRC8 leaves residue zero. -/
theorem writeRegWireHasZeroResidue : Obligations.WriteRegWireHasZeroResidue := by
  unfold Obligations.WriteRegWireHasZeroResidue
  intro s t dev reg data hz hnext
  obtain ⟨-, rfl⟩ := (exec_writeReg_next_iff s t dev reg data).mp hnext
  refine ⟨crc s.cfg.crc8 (preW dev reg ++ data), ?log, ?residue⟩
  case log => rw [State.writeTransaction_busLog, writeRegWire_eq]
  case residue =>
    rw [← addrByteW_eq_ofNat]
    exact hz.crc_append_crc (preW dev reg ++ data)

theorem isOpCode_eq_false_iff (op : Byte) :
    isOpCode op = false ↔ op ∉ ([0x10#8, 0x11#8, 0x12#8, 0x20#8, 0x21#8, 0x22#8, 0x30#8, 0x31#8, 0x40#8, 0x41#8,
      0x42#8, 0x43#8] : List Byte) := by
  rw [isOpCode, ← Bool.not_eq_true, List.contains_iff_mem]

/-- A code outside the table of R74 matches no row of the decoder (R76). -/
theorem decodeCmd_of_not_isOpCode (op : Byte) (a : Operands) (h : isOpCode op = false) :
    decodeCmd op a = .error (.reservedCommand op) := by
  rw [isOpCode_eq_false_iff] at h
  simp only [List.mem_cons, List.not_mem_nil, or_false, not_or] at h
  obtain ⟨h10, h11, h12, h20, h21, h22, h30, h31, h40, h41, h42, h43⟩ := h
  rw [decodeCmd, if_neg h10, if_neg h11, if_neg h12, if_neg h20, if_neg h21, if_neg h22, if_neg h30, if_neg h31,
    if_neg h40, if_neg h41, if_neg h42, if_neg h43]

/-- A code that the decoder rejects is refused with the decoder's reason, in every state (R61, R76). -/
theorem runCode_of_error (c : Code) (s : State) (r : Reject) (h : Sys2Proof.decode c = .error r) :
    runCode c s = .refused (refusalOf r) := by
  simp only [runCode, h]

/-- Settles O54: the decoder rejects the code, and running a rejected code is the refusal of the same name. -/
theorem reservedCommandsAreRefused : Obligations.ReservedCommandsAreRefused := by
  unfold Obligations.ReservedCommandsAreRefused
  intro s op a hop
  have hdecode : Sys2Proof.decode (.cmd op a) = .error (.reservedCommand op) :=
    decodeCmd_of_not_isOpCode op a ((isOpCode_eq_false_iff op).mpr hop)
  exact runCode_of_error (.cmd op a) s (.reservedCommand op) hdecode

end Sys2Proof.Machine
end

/-! ### The CRC arithmetic: reflection, output, serialisation and the shift register (R86, R87) -/

section
namespace Sys2Proof.Machine

section Crc
variable {w : Nat}

/-- Bit `i` of the reflection is bit `w-1-i` (R86). -/
theorem reflect_getLsbD (v : BitVec w) (i : Nat) (hi : i < w) : (reflect v).getLsbD i = v.getLsbD (w - 1 - i) := by
  rw [reflect, BitVec.getLsbD_reverse, BitVec.getMsbD_eq_getLsbD, decide_eq_true hi, Bool.true_and]

/-- The output function bit by bit: the accumulator's bit, from the other end when REFOUT, then the xor (R86). -/
theorem crcOut_getLsbD (p : CrcParams w) (a : BitVec w) (i : Nat) (hi : i < w) :
    (crcOut p a).getLsbD i = ((if p.refout then a.getLsbD (w - 1 - i) else a.getLsbD i) ^^ p.xorout.getLsbD i) := by
  rw [crcOut, BitVec.getLsbD_xor]
  cases p.refout with
  | false => rfl
  | true => simp only [if_true, reflect_getLsbD a i hi]

/-- The byte enters the register with its bits in order, or from the other end when REFIN (R45, R87). -/
theorem crcInput_getLsbD (p : CrcParams w) (b : Byte) (i : Nat) (hi : i < 8) :
    (crcInput p b).getLsbD i = if p.refin then b.getLsbD (7 - i) else b.getLsbD i := by
  rw [crcInput]
  cases p.refin with
  | false => rfl
  | true => exact reflect_getLsbD b i hi

/-- A 16-bit value is 256 times its high byte plus its low byte. -/
theorem toNat_eq_high_low (v : BitVec 16) :
    v.toNat = 256 * ((v >>> 8).setWidth 8).toNat + (v.setWidth 8).toNat := by
  have hv : v.toNat < 65536 := v.isLt
  simp only [BitVec.toNat_setWidth, BitVec.toNat_ushiftRight, Nat.shiftRight_eq_div_pow]
  omega

/-- The two bytes of a 16-bit value are its bits 15..8 and then its bits 7..0 (R86). -/
theorem ser_sixteen_eq_extractLsb' (v : BitVec 16) : ser v = [v.extractLsb' 8 8, v.extractLsb' 0 8] := by
  rw [ser_sixteen, BitVec.setWidth_ushiftRight_eq_extractLsb, BitVec.setWidth_eq_extractLsb' (by omega)]

/-- One shift, with the bit shifted out named by its position (R87). -/
theorem crcShift_eq (p : CrcParams w) :
    crcShift p = fun x => if x.getLsbD (w - 1) then (x <<< 1) ^^^ p.poly else x <<< 1 := by
  funext x
  rw [crcShift, BitVec.msb_eq_getLsbD_last]

theorem crcShifts_eq_iterate (p : CrcParams w) (n : Nat) (a : BitVec w) : crcShifts p n a = (crcShift p)^[n] a := by
  induction n generalizing a with
  | zero => rfl
  | succ n ih => rw [crcShifts, ih, Function.iterate_succ_apply]

end Crc

/-- The running values of the specification's 8-bit example, byte by byte (R89). -/
theorem crc8Ref_runningValues :
    crcStep Config.crc8Ref 0x00#8 0x22#8 = 0xEE#8 ∧ crcStep Config.crc8Ref 0xEE#8 0x08#8 = 0xBC#8 ∧
      crcStep Config.crc8Ref 0xBC#8 0x05#8 = 0x26#8 := by decide

/-- The running values of the specification's 16-bit example, byte by byte (R92, R93). -/
theorem crc16Ref_runningValues :
    crcStep Config.crc16Ref 0xFFFF#16 0x01#8 = 0xF1D1#16 ∧ crcStep Config.crc16Ref 0xF1D1#16 0x10#8 = 0x3C0F#16 ∧
      crcStep Config.crc16Ref 0x3C0F#16 0x05#8 = 0xA87A#16 := by decide

/-- Settles O8: reflection and output by their bits, serialisation by its bytes and by the number they spell. -/
theorem crcHelpersAreReflectionOutputAndSerialisation :
    Obligations.CrcHelpersAreReflectionOutputAndSerialisation := by
  unfold Obligations.CrcHelpersAreReflectionOutputAndSerialisation
  exact ⟨fun _ v i hi => reflect_getLsbD v i hi, fun _ p a i hi => crcOut_getLsbD p a i hi, ser_eight,
    fun v => ⟨_, _, ser_sixteen v, toNat_eq_high_low v⟩⟩

/-- Settles O9: the byte that enters is `crcInput`, and the model's eight shifts are the iterate of one shift. -/
theorem crcStepIsTheShiftRegister : Obligations.CrcStepIsTheShiftRegister := by
  unfold Obligations.CrcStepIsTheShiftRegister
  intro w p a b B _
  refine ⟨⟨crcInput p b, crcInput_getLsbD p b, ?shifts⟩, crcFold_nil p a, crcFold_cons p a b B⟩
  case shifts => rw [crcStep, crcShifts_eq_iterate, crcShift_eq, crcEnter]

end Sys2Proof.Machine
end

/-! ### The operations of the ChecksumEngine (R88 to R93) -/

section
namespace Sys2Proof.Machine

/-! Each operation's result, effect and frame in one equation. -/

theorem exec_crc8Reset (s : State) :
    exec .crc8Reset s = .next { s with acc8 := .val s.cfg.crc8.init, result := .done } := rfl

theorem exec_crc8Update (B : ByteString) (s : State) :
    exec (.crc8Update B) s = .next { s with
      acc8 := s.acc8.fold s.cfg.crc8 B, unwrittenAcc := s.unwrittenAcc || s.acc8.isBottom,
      result := .value8 (crcFold s.cfg.crc8 s.acc8.held B) } := rfl

theorem exec_crc8Finalize (s : State) :
    exec .crc8Finalize s = .next { s with
      unwrittenAcc := s.unwrittenAcc || s.acc8.isBottom,
      result := .bytes (ser (crcOut s.cfg.crc8 s.acc8.held)) } := rfl

theorem exec_crc16Reset (s : State) :
    exec .crc16Reset s = .next { s with acc16 := .val s.cfg.crc16.init, result := .done } := rfl

theorem exec_crc16Update (B : ByteString) (s : State) :
    exec (.crc16Update B) s = .next { s with
      acc16 := s.acc16.fold s.cfg.crc16 B, unwrittenAcc := s.unwrittenAcc || s.acc16.isBottom,
      result := .value16 (crcFold s.cfg.crc16 s.acc16.held B) } := rfl

theorem exec_crc16Finalize (s : State) :
    exec .crc16Finalize s = .next { s with
      unwrittenAcc := s.unwrittenAcc || s.acc16.isBottom,
      result := .bytes (ser (crcOut s.cfg.crc16 s.acc16.held)) } := rfl

/-! On an accumulator that holds a value, nothing is recorded. -/

theorem exec_crc8Update_of_val (B : ByteString) (s : State) (a : BitVec 8) (h : s.acc8 = .val a) :
    exec (.crc8Update B) s =
      .next { s with acc8 := .val (crcFold s.cfg.crc8 a B), result := .value8 (crcFold s.cfg.crc8 a B) } := by
  simp [exec_crc8Update, h]

theorem exec_crc8Finalize_of_val (s : State) (a : BitVec 8) (h : s.acc8 = .val a) :
    exec .crc8Finalize s = .next { s with result := .bytes [crcOut s.cfg.crc8 a] } := by
  simp [exec_crc8Finalize, h]

theorem exec_crc16Update_of_val (B : ByteString) (s : State) (a : BitVec 16) (h : s.acc16 = .val a) :
    exec (.crc16Update B) s =
      .next { s with acc16 := .val (crcFold s.cfg.crc16 a B), result := .value16 (crcFold s.cfg.crc16 a B) } := by
  simp [exec_crc16Update, h]

theorem exec_crc16Finalize_of_val (s : State) (a : BitVec 16) (h : s.acc16 = .val a) :
    exec .crc16Finalize s = .next { s with result := .bytes (ser (crcOut s.cfg.crc16 a)) } := by
  simp [exec_crc16Finalize, h]

/-! On `⊥`, the model fault is recorded (R94). -/

theorem crc8Update_records_of_bottom (B : ByteString) (s t : State) (hb : s.acc8.isBottom = true)
    (h : exec (.crc8Update B) s = .next t) : t.unwrittenAcc = true := by
  rw [exec_crc8Update, Host.Outcome.next.injEq] at h
  simp [← h, hb]

theorem crc8Finalize_records_of_bottom (s t : State) (hb : s.acc8.isBottom = true)
    (h : exec .crc8Finalize s = .next t) : t.unwrittenAcc = true := by
  rw [exec_crc8Finalize, Host.Outcome.next.injEq] at h
  simp [← h, hb]

theorem crc16Update_records_of_bottom (B : ByteString) (s t : State) (hb : s.acc16.isBottom = true)
    (h : exec (.crc16Update B) s = .next t) : t.unwrittenAcc = true := by
  rw [exec_crc16Update, Host.Outcome.next.injEq] at h
  simp [← h, hb]

theorem crc16Finalize_records_of_bottom (s t : State) (hb : s.acc16.isBottom = true)
    (h : exec .crc16Finalize s = .next t) : t.unwrittenAcc = true := by
  rw [exec_crc16Finalize, Host.Outcome.next.injEq] at h
  simp [← h, hb]

/-! What an instruction does to an accumulator: only the engine's own RESET leads out of `⊥` (R88, R91). -/

/-- `crc8.acc` is RESET, or folded by UPDATE, or left alone, or dropped to `⊥` by a transaction (R13). -/
theorem exec_acc8_cases (i : Instr) (s t : State) (h : exec i s = .next t) :
    i = .crc8Reset ∨ (∃ B, i = .crc8Update B ∧ t.acc8 = s.acc8.fold s.cfg.crc8 B) ∨ t.acc8 = s.acc8 ∨
      t.acc8.isBottom = true := by
  rcases exec_cases i s t h with ⟨-, -, -, -, hi⟩ | ⟨ht, -⟩ | ⟨ht, -⟩ | ⟨B, ht, -⟩ | ⟨ht, -⟩ | ⟨d, W, ht, -⟩ |
    ⟨d, r, n, v, ht, -⟩
  case inl =>
    obtain rfl | ⟨B, rfl⟩ := hi
    · exact .inl rfl
    · rw [exec_crc8Update, Host.Outcome.next.injEq] at h
      exact .inr (.inl ⟨B, rfl, by rw [← h]⟩)
  case inr.inr.inr.inr.inr.inl =>
    right; right; right
    obtain ⟨-, h'⟩ | ⟨-, h'⟩ := writeTransaction_cases s d W <;> rw [ht, h', Acc.isBottom_bottom]
  case inr.inr.inr.inr.inr.inr =>
    right; right; right
    obtain ⟨res, h', -⟩ := readTransaction_cases s d r n v
    rw [ht, h', Acc.isBottom_bottom]
  all_goals
    have hacc := congrArg State.acc8 ht
    exact .inr (.inr (.inl hacc))

/-- `crc16.acc` is RESET, or folded by UPDATE, or left alone (R13). -/
theorem exec_acc16_cases (i : Instr) (s t : State) (h : exec i s = .next t) :
    i = .crc16Reset ∨ (∃ B, i = .crc16Update B ∧ t.acc16 = s.acc16.fold s.cfg.crc16 B) ∨ t.acc16 = s.acc16 := by
  rcases exec_cases i s t h with ⟨ht, -⟩ | ⟨-, -, -, -, hi⟩ | ⟨ht, -⟩ | ⟨B, ht, -⟩ | ⟨ht, -⟩ | ⟨d, W, ht, -⟩ |
    ⟨d, r, n, v, ht, -⟩
  case inr.inl =>
    obtain rfl | ⟨B, rfl⟩ := hi
    · exact .inl rfl
    · rw [exec_crc16Update, Host.Outcome.next.injEq] at h
      exact .inr (.inl ⟨B, rfl, by rw [← h]⟩)
  case inr.inr.inr.inr.inr.inl =>
    right; right
    obtain ⟨-, h'⟩ | ⟨-, h'⟩ := writeTransaction_cases s d W <;> rw [ht, h']
  case inr.inr.inr.inr.inr.inr =>
    right; right
    obtain ⟨res, h', -⟩ := readTransaction_cases s d r n v
    rw [ht, h']
  all_goals
    have hacc := congrArg State.acc16 ht
    exact .inr (.inr hacc)

theorem eq_crc8Reset_of_leaves_bottom (i : Instr) (s t : State) (hs : s.acc8.isBottom = true)
    (h : exec i s = .next t) (ht : t.acc8.isBottom = false) : i = .crc8Reset := by
  obtain hi | ⟨B, -, hacc⟩ | hacc | hacc := exec_acc8_cases i s t h
  · exact hi
  · rw [hacc, Acc.fold_isBottom, hs] at ht; cases ht
  · rw [hacc, hs] at ht; cases ht
  · rw [hacc] at ht; cases ht

theorem eq_crc16Reset_of_leaves_bottom (i : Instr) (s t : State) (hs : s.acc16.isBottom = true)
    (h : exec i s = .next t) (ht : t.acc16.isBottom = false) : i = .crc16Reset := by
  obtain hi | ⟨B, -, hacc⟩ | hacc := exec_acc16_cases i s t h
  · exact hi
  · rw [hacc, Acc.fold_isBottom, hs] at ht; cases ht
  · rw [hacc, hs] at ht; cases ht

/-- Settles O1: RESET by its equation, twice included; and an instruction that leads out of `⊥` is RESET. -/
theorem crc8ResetLoadsInit : Obligations.Crc8ResetLoadsInit := by
  unfold Obligations.Crc8ResetLoadsInit
  intro s a
  refine ⟨rfl, exec_crc8Reset s, ?twice, ?reference, fun i t => eq_crc8Reset_of_leaves_bottom i s t⟩
  case twice =>
    intro t h
    rw [exec_crc8Reset, Host.Outcome.next.injEq] at h
    rw [← h, exec_crc8Reset]
  case reference =>
    intro hcfg
    rw [exec_crc8Reset, hcfg, Config.crc8Ref]

/-- Settles O4: as for the 8-bit engine. -/
theorem crc16ResetLoadsInit : Obligations.Crc16ResetLoadsInit := by
  unfold Obligations.Crc16ResetLoadsInit
  intro s a
  refine ⟨rfl, exec_crc16Reset s, ?twice, ?reference, fun i t => eq_crc16Reset_of_leaves_bottom i s t⟩
  case twice =>
    intro t h
    rw [exec_crc16Reset, Host.Outcome.next.injEq] at h
    rw [← h, exec_crc16Reset]
  case reference =>
    intro hcfg
    rw [exec_crc16Reset, hcfg, Config.crc16Ref]

/-- Settles O2: UPDATE on a value by its equation, of which the empty string is a case; the running values are
computed. -/
theorem crc8UpdateFoldsBytes : Obligations.Crc8UpdateFoldsBytes := by
  unfold Obligations.Crc8UpdateFoldsBytes
  refine ⟨fun s B => ⟨rfl, fun t => crc8Update_records_of_bottom B s t, fun a h => ⟨?fold, ?empty⟩⟩,
    crc8Ref_runningValues⟩
  case fold => exact exec_crc8Update_of_val B s a h
  case empty => rw [exec_crc8Update_of_val [] s a h, crcFold_nil, ← h]

/-- Settles O5: as for the 8-bit engine. -/
theorem crc16UpdateFoldsBytes : Obligations.Crc16UpdateFoldsBytes := by
  unfold Obligations.Crc16UpdateFoldsBytes
  refine ⟨fun s B => ⟨rfl, fun t => crc16Update_records_of_bottom B s t, fun a h => ⟨?fold, ?empty⟩⟩,
    crc16Ref_runningValues.1⟩
  case fold => exact exec_crc16Update_of_val B s a h
  case empty => rw [exec_crc16Update_of_val [] s a h, crcFold_nil, ← h]

/-- Settles O3: FINALIZE on a value by its equation; the state it leaves holds the same value, so a second one returns
the same. -/
theorem crc8FinalizeReturnsOneByte : Obligations.Crc8FinalizeReturnsOneByte := by
  unfold Obligations.Crc8FinalizeReturnsOneByte
  refine ⟨fun s ops => ⟨rfl, crc8Finalize_records_of_bottom s, fun a h => ⟨?once, ?twice, ?empty⟩⟩, ?reference⟩
  case once => exact exec_crc8Finalize_of_val s a h
  case twice => exact exec_crc8Finalize_of_val _ a h
  case empty => exact exec_crc8Finalize_of_val _ s.cfg.crc8.init rfl
  case reference =>
    obtain ⟨h22, h08, h05⟩ := crc8Ref_runningValues
    rw [crcOut_plain _ _ rfl rfl, crcFold_cons, h22, crcFold_cons, h08, crcFold_cons, h05, crcFold_nil]

/-- Settles O6: FINALIZE on a value by its equation, its two bytes read off the output value. -/
theorem crc16FinalizeReturnsTwoBytes : Obligations.Crc16FinalizeReturnsTwoBytes := by
  unfold Obligations.Crc16FinalizeReturnsTwoBytes
  refine ⟨fun s ops => ⟨rfl, crc16Finalize_records_of_bottom s, fun a h => ?bytes⟩, ?reference⟩
  case bytes =>
    intro v
    have hv : crcOut s.cfg.crc16 a = v := rfl
    rw [exec_crc16Finalize_of_val s a h, hv, ser_sixteen_eq_extractLsb']
  case reference =>
    obtain ⟨h01, h10, h05⟩ := crc16Ref_runningValues
    rw [crcOut_plain _ _ rfl rfl, crcFold_cons, h01, crcFold_cons, h10, crcFold_cons, h05, crcFold_nil]
    decide

end Sys2Proof.Machine
end

/-! ### The FrameCodec's encoder (R100 to R102) -/

section
namespace Sys2Proof.Machine

/-- ENCODE returns the frame and touches nothing (R101). -/
theorem exec_encode (P C : ByteString) (s : State) :
    exec (.encode P C) s = .next { s with result := .bytes (encodeFrame P C) } := rfl

/-- The byte stuffing with the reserved values written out (R17, R100). -/
theorem esc_eq : esc = fun b => if b = 0xF1#8 ∨ b = 0xFA#8 ∨ b = 0xFF#8 then [0xFF#8, b] else [b] := by
  funext b
  simp only [esc, reserved_iff, Config.ESCAPE]

/-- The frame with the delimiters and the reserved values written out (R17, R101). -/
theorem encodeFrame_eq (P C : ByteString) :
    encodeFrame P C = [0xF1#8] ++
      (P ++ C).flatMap (fun b => if b = 0xF1#8 ∨ b = 0xFA#8 ∨ b = 0xFF#8 then [0xFF#8, b] else [b]) ++ [0xFA#8] := by
  rw [encodeFrame, escaped, esc_eq, Config.START, Config.END]

/-- Only the payload with its checksum behind it matters (R101). -/
theorem encodeFrame_append_nil (P C : ByteString) : encodeFrame (P ++ C) [] = encodeFrame P C := by
  rw [encodeFrame, encodeFrame, List.append_nil]

theorem esc_length (b : Byte) : (esc b).length = 1 + if reserved b then 1 else 0 := by
  rw [esc]
  cases reserved b <;> rfl

/-- Escaping adds one byte for each reserved byte (R60). -/
theorem escaped_length (X : ByteString) : (escaped X).length = X.length + reservedCount X := by
  induction X with
  | nil => rfl
  | cons b X ih =>
    rw [escaped_cons, List.length_append, ih, esc_length, List.length_cons, reservedCount, reservedCount,
      List.countP_cons]
    omega

theorem encodeFrame_length (P C : ByteString) :
    (encodeFrame P C).length = 2 + (P ++ C).length + reservedCount (P ++ C) := by
  rw [encodeFrame, List.length_append, List.length_append, escaped_length, List.length_singleton,
    List.length_singleton]
  omega

theorem reservedCount_of_all_reserved (X : ByteString) (h : ∀ b ∈ X, b = 0xF1#8 ∨ b = 0xFA#8 ∨ b = 0xFF#8) :
    reservedCount X = X.length :=
  List.countP_eq_length.mpr fun b hb => (reserved_iff b).mpr (h b hb)

/-- Settles O16: ENCODE's result is `encodeFrame`, so each clause is a fact about that function. -/
theorem encodeWritesTheFrame : Obligations.EncodeWritesTheFrame := by
  unfold Obligations.EncodeWritesTheFrame
  refine ⟨fun s P C => ⟨rfl, ?frame, ?concatenation⟩, fun s => ?empty, fun s P hP => ?doubles, fun s => ?reference⟩
  case frame => rw [exec_encode, encodeFrame_eq]
  case concatenation => rw [exec_encode, exec_encode, encodeFrame_append_nil]
  case empty => exact exec_encode [] [] s
  case doubles =>
    refine ⟨encodeFrame P [], exec_encode P [] s, ?_⟩
    rw [encodeFrame_length, List.append_nil, reservedCount_of_all_reserved P hP]
    omega
  case reference =>
    have hframe : encodeFrame [0xF1#8, 0xFA#8, 0xFF#8] [] =
        [0xF1#8, 0xFF#8, 0xF1#8, 0xFF#8, 0xFA#8, 0xFF#8, 0xFF#8, 0xFA#8] := by decide
    rw [exec_encode, hframe]

end Sys2Proof.Machine
end

/-! ### The received bytes (R62, R106 to R113) -/

section
namespace Sys2Proof.Machine

/-! One row of the decoder's table per lemma. -/

theorem dstep_waiting_start (d : Decoder) (h : d.state = .waitingForStart) :
    dstep d 0xF1#8 = ({ state := .accumulating, buf := [] }, []) := by
  simp [dstep, h, Config.START]

theorem dstep_waiting_of_ne_start (d : Decoder) (b : Byte) (h : d.state = .waitingForStart) (hb : b ≠ 0xF1#8) :
    dstep d b = (d, []) := by
  simp [dstep, h, Config.START, hb]

theorem dstep_accumulating_escape (d : Decoder) (h : d.state = .accumulating) :
    dstep d 0xFF#8 = ({ state := .escaped, buf := d.buf }, []) := by
  simp [dstep, h, Config.START, Config.END, Config.ESCAPE]

theorem dstep_accumulating_start (d : Decoder) (h : d.state = .accumulating) :
    dstep d 0xF1#8 = ({ state := .accumulating, buf := [] }, [.framingError .unexpectedStart]) := by
  simp [dstep, h, Config.START]

theorem dstep_accumulating_end (d : Decoder) (h : d.state = .accumulating) :
    dstep d 0xFA#8 = ({ state := .waitingForStart, buf := [] }, [.msg d.buf]) := by
  simp [dstep, h, Config.START, Config.END]

theorem dstep_accumulating_literal (d : Decoder) (b : Byte) (h : d.state = .accumulating) (hb : reserved b = false) :
    dstep d b = ({ state := .accumulating, buf := d.buf ++ [b] }, []) := by
  obtain ⟨hstart, hend, hescape⟩ := (reserved_eq_false_iff b).mp hb
  simp [dstep, h, Config.START, Config.END, Config.ESCAPE, hstart, hend, hescape]

theorem dstep_escaped_reserved (d : Decoder) (b : Byte) (h : d.state = .escaped) (hb : reserved b = true) :
    dstep d b = ({ state := .accumulating, buf := d.buf ++ [b] }, []) := by
  simp [dstep, h, hb]

theorem dstep_escaped_literal (d : Decoder) (b : Byte) (h : d.state = .escaped) (hb : reserved b = false) :
    dstep d b = ({ state := .waitingForStart, buf := [] }, [.framingError .invalidEscape]) := by
  simp [dstep, h, hb]

/-! A received byte's instruction is the decoder's one transition, whatever the byte's class. -/

theorem decodeFrame_of_not_reserved (b : Byte) (h : reserved b = false) : decodeFrame b = .literal b := by
  obtain ⟨hstart, hend, hescape⟩ := (reserved_eq_false_iff b).mp h
  rw [decodeFrame, Config.START, Config.END, Config.ESCAPE, if_neg hstart, if_neg hend, if_neg hescape]

/-- The literal arm refuses reserved bytes only (R62, log entry 14). -/
theorem exec_literal_of_not_reserved (b : Byte) (s : State) (h : reserved b = false) :
    exec (.literal b) s = whenConnected s (s.receive [b]) := by
  have hexec : exec (.literal b) s = execLiteral b s := rfl
  rw [hexec, execLiteral, h, if_neg Bool.false_ne_true]

/-- The four classes of received bytes are one operation: the byte is received while a session is open (R62, R182). -/
theorem exec_decodeFrame (b : Byte) (s : State) : exec (decodeFrame b) s = whenConnected s (s.receive [b]) := by
  cases hb : reserved b with
  | false => rw [decodeFrame_of_not_reserved b hb, exec_literal_of_not_reserved b s hb]
  | true => obtain rfl | rfl | rfl := (reserved_iff b).mp hb <;> rfl

theorem State.receive_singleton (s : State) (b : Byte) :
    s.receive [b] = { s with dec := (dstep s.dec b).1, result := .events (dstep s.dec b).2 } := by
  rw [State.receive, decodeBytes_cons, decodeBytes_nil, List.append_nil]

/-- With a session open, a received byte's effect is its row of the decoder's table, and nothing else changes. -/
theorem exec_decodeFrame_of_dstep {s : State} {b : Byte} {d : Decoder} {ev : List Event}
    (hopen : s.session.port.isSome = true) (h : dstep s.dec b = (d, ev)) :
    exec (decodeFrame b) s = .next { s with dec := d, result := .events ev } := by
  rw [exec_decodeFrame, whenConnected_of_open _ _ hopen, State.receive_singleton, h]

theorem exec_literal_of_dstep {s : State} {b : Byte} {d : Decoder} {ev : List Event} (hb : reserved b = false)
    (hopen : s.session.port.isSome = true) (h : dstep s.dec b = (d, ev)) :
    exec (.literal b) s = .next { s with dec := d, result := .events ev } := by
  rw [← decodeFrame_of_not_reserved b hb]
  exact exec_decodeFrame_of_dstep hopen h

/-- Settles O18: R107 for START, R106 for each other byte. -/
theorem receivedByteInWaitingForStart : Obligations.ReceivedByteInWaitingForStart := by
  unfold Obligations.ReceivedByteInWaitingForStart
  intro s hopen hstate
  refine ⟨?start, ?endByte, ?escape, fun b hstart hend hescape => ?literal⟩
  case start => exact exec_decodeFrame_of_dstep hopen (dstep_waiting_start s.dec hstate)
  case endByte => exact exec_decodeFrame_of_dstep hopen (dstep_waiting_of_ne_start s.dec 0xFA#8 hstate (by decide))
  case escape => exact exec_decodeFrame_of_dstep hopen (dstep_waiting_of_ne_start s.dec 0xFF#8 hstate (by decide))
  case literal =>
    have hb : reserved b = false := (reserved_eq_false_iff b).mpr ⟨hstart, hend, hescape⟩
    exact exec_literal_of_dstep hb hopen (dstep_waiting_of_ne_start s.dec b hstate hstart)

/-- Settles O19: R108 for ESCAPE, R109 for START, R110 for END, R111 for a literal. -/
theorem receivedByteInAccumulating : Obligations.ReceivedByteInAccumulating := by
  unfold Obligations.ReceivedByteInAccumulating
  intro s hopen hstate
  refine ⟨?escape, ?start, ?endByte, fun b hstart hend hescape => ?literal⟩
  case escape => exact exec_decodeFrame_of_dstep hopen (dstep_accumulating_escape s.dec hstate)
  case start => exact exec_decodeFrame_of_dstep hopen (dstep_accumulating_start s.dec hstate)
  case endByte => exact exec_decodeFrame_of_dstep hopen (dstep_accumulating_end s.dec hstate)
  case literal =>
    have hb : reserved b = false := (reserved_eq_false_iff b).mpr ⟨hstart, hend, hescape⟩
    exact exec_literal_of_dstep hb hopen (dstep_accumulating_literal s.dec b hstate hb)

/-- Settles O20: R112 for the three reserved bytes, R113 for a literal. -/
theorem receivedByteInEscaped : Obligations.ReceivedByteInEscaped := by
  unfold Obligations.ReceivedByteInEscaped
  intro s hopen hstate
  refine ⟨?start, ?endByte, ?escape, fun b hstart hend hescape => ?literal⟩
  case start => exact exec_decodeFrame_of_dstep hopen (dstep_escaped_reserved s.dec 0xF1#8 hstate (by decide))
  case endByte => exact exec_decodeFrame_of_dstep hopen (dstep_escaped_reserved s.dec 0xFA#8 hstate (by decide))
  case escape => exact exec_decodeFrame_of_dstep hopen (dstep_escaped_reserved s.dec 0xFF#8 hstate (by decide))
  case literal =>
    have hb : reserved b = false := (reserved_eq_false_iff b).mpr ⟨hstart, hend, hescape⟩
    exact exec_literal_of_dstep hb hopen (dstep_escaped_literal s.dec b hstate hb)

end Sys2Proof.Machine
end

/-! ### SENDMSG and CHECKMSG (R120 to R123) -/

section
namespace Sys2Proof.Machine

/-! The trailer setting chooses what happens to `crc16.acc`, the wire string and the check. -/

theorem State.afterTrailer_of_trailer (s : State) (h : s.cfg.trailer16 = true) : s.afterTrailer = s.dropAcc16 := by
  rw [State.afterTrailer, if_pos h]

theorem State.afterTrailer_of_no_trailer (s : State) (h : s.cfg.trailer16 = false) : s.afterTrailer = s := by
  rw [State.afterTrailer, h, if_neg Bool.false_ne_true]

theorem sendMsgWire_of_trailer (cfg : Cfg) (M : ByteString) (h : cfg.trailer16 = true) :
    sendMsgWire cfg M = encodeFrame M (csum cfg.crc16 M) := by
  rw [sendMsgWire, if_pos h]

theorem sendMsgWire_of_no_trailer (cfg : Cfg) (M : ByteString) (h : cfg.trailer16 = false) :
    sendMsgWire cfg M = encodeFrame M [] := by
  rw [sendMsgWire, h, if_neg Bool.false_ne_true]

theorem checkMsgResult_of_no_trailer (cfg : Cfg) (F : ByteString) (h : cfg.trailer16 = false) :
    checkMsgResult cfg F = .okMessage F := by
  rw [checkMsgResult, h, if_neg Bool.false_ne_true]

theorem checkMsgResult_of_short (cfg : Cfg) (F : ByteString) (h : cfg.trailer16 = true) (hF : F.length < 2) :
    checkMsgResult cfg F = .err .checksum := by
  rw [checkMsgResult, if_pos h, if_pos hF]

theorem checkMsgResult_of_crc_ne_zero (cfg : Cfg) (F : ByteString) (h : cfg.trailer16 = true)
    (hcrc : crc cfg.crc16 F ≠ 0#16) : checkMsgResult cfg F = .err .checksum := by
  rw [checkMsgResult, if_pos h, if_neg hcrc, ite_self]

theorem checkMsgResult_of_crc_zero (cfg : Cfg) (M : ByteString) (c₁ c₀ : Byte) (h : cfg.trailer16 = true)
    (hcrc : crc cfg.crc16 (M ++ [c₁, c₀]) = 0#16) : checkMsgResult cfg (M ++ [c₁, c₀]) = .okMessage M := by
  have hlength : (M ++ [c₁, c₀]).length = M.length + 2 := List.length_append
  have hlong : ¬ (M ++ [c₁, c₀]).length < 2 := by omega
  rw [checkMsgResult, if_pos h, if_neg hlong, if_pos hcrc, hlength, Nat.add_sub_cancel, List.take_left]

/-- SENDMSG while a session is open: the wire string is returned and placed on TX (R42, R120). -/
theorem runInput_sendMsg_of_open (s : State) (M : ByteString) (h : s.session.port.isSome = true) :
    runInput (.sendMsg M) s = .next { s.afterTrailer with
      tx := s.tx ++ sendMsgWire s.cfg M, result := .bytes (sendMsgWire s.cfg M) } := by
  have hrun : runInput (.sendMsg M) s = runSendMsg M s := rfl
  rw [hrun, runSendMsg, whenConnected_of_open _ _ h, State.return]

theorem runInput_checkMsg (s : State) (F : ByteString) :
    runInput (.checkMsg F) s = .next (s.afterTrailer.return (checkMsgResult s.cfg F)) := rfl

/-- CHECKMSG with the trailer: the check uses up `crc16.acc` whatever it finds (R123). -/
theorem runInput_checkMsg_of_trailer {s : State} {F : ByteString} {r : Result} (h : s.cfg.trailer16 = true)
    (hr : checkMsgResult s.cfg F = r) :
    runInput (.checkMsg F) s = .next { s with
      acc16 := .bottom (Config.freeAcc16 s.accIx), accIx := s.accIx + 1, result := r } := by
  rw [runInput_checkMsg, State.afterTrailer_of_trailer s h, hr, State.dropAcc16, State.return]

/-- Settles O28: SENDMSG's wire string is what ENCODE returns, by the trailer setting. -/
theorem sendMsgFramesTheMessage : Obligations.SendMsgFramesTheMessage := by
  unfold Obligations.SendMsgFramesTheMessage
  intro s M hopen
  refine ⟨fun htrailer => ?trailer, fun htrailer => ?noTrailer⟩
  case trailer =>
    refine ⟨_, _, exec_encode M (csum s.cfg.crc16 M) s, rfl, ?_⟩
    rw [runInput_sendMsg_of_open s M hopen, State.afterTrailer_of_trailer s htrailer,
      sendMsgWire_of_trailer s.cfg M htrailer, State.dropAcc16]
  case noTrailer =>
    refine ⟨_, _, exec_encode M [] s, rfl, ?_⟩
    rw [runInput_sendMsg_of_open s M hopen, State.afterTrailer_of_no_trailer s htrailer,
      sendMsgWire_of_no_trailer s.cfg M htrailer]

/-- Settles O29: the result is `checkMsgResult`, by the trailer setting, the length and the residue. -/
theorem checkMsgVerifiesTheTrailer : Obligations.CheckMsgVerifiesTheTrailer := by
  unfold Obligations.CheckMsgVerifiesTheTrailer
  intro s F
  refine ⟨fun htrailer => ?noTrailer, fun htrailer => ⟨?short, ?residue, ?verified⟩⟩
  case noTrailer =>
    rw [runInput_checkMsg, State.afterTrailer_of_no_trailer s htrailer,
      checkMsgResult_of_no_trailer s.cfg F htrailer, State.return]
  case short =>
    intro hF
    exact runInput_checkMsg_of_trailer htrailer (checkMsgResult_of_short s.cfg F htrailer hF)
  case residue =>
    intro _ hcrc
    exact runInput_checkMsg_of_trailer htrailer (checkMsgResult_of_crc_ne_zero s.cfg F htrailer hcrc)
  case verified =>
    rintro M c₁ c₀ rfl hcrc
    exact runInput_checkMsg_of_trailer htrailer (checkMsgResult_of_crc_zero s.cfg M c₁ c₀ htrailer hcrc)

end Sys2Proof.Machine
end

/-! ### The four transaction operations (R131, R134 to R150) -/

section
namespace Sys2Proof.Machine

/-! What the operations transmit and cover, in numbers and byte by byte. -/

/-- The read addressing byte is one more than the write addressing byte, read as a number (R67). -/
theorem addrByteR_eq_ofNat (dev : DevAddr) : addrByteR dev = BitVec.ofNat 8 (2 * dev.toNat + 1) := by
  have hdev : dev.toNat < 128 := dev.isLt
  have heven : 2 * dev.toNat % 2 ^ 8 = dev.toNat <<< 1 := by rw [Nat.shiftLeft_eq]; omega
  apply BitVec.eq_of_toNat_eq
  rw [addrByteR, addrByteW_eq_ofNat, BitVec.toNat_or, BitVec.toNat_ofNat, BitVec.toNat_ofNat, BitVec.toNat_ofNat, heven,
    Nat.one_mod, ← Nat.shiftLeft_add_eq_or_of_lt (by decide), Nat.shiftLeft_eq]
  omega

theorem preW_eq (dev : DevAddr) (reg : Byte) : preW dev reg = [BitVec.ofNat 8 (2 * dev.toNat), reg] := by
  rw [preW, addrByteW_eq_ofNat]

theorem preR_eq (dev : DevAddr) (reg : Byte) :
    preR dev reg = [BitVec.ofNat 8 (2 * dev.toNat), reg, BitVec.ofNat 8 (2 * dev.toNat + 1)] := by
  rw [preR, addrByteW_eq_ofNat, addrByteR_eq_ofNat]

/-- The wire string WRM register by register: each segment and its checksum, the first covering AW and firstReg too
(R131, R140). -/
theorem writeMultiWire_eq (p : CrcParams 8) (dev : DevAddr) (reg : Byte) (sizes : List Nat) (data : ByteString) :
    writeMultiWire p dev reg sizes data = [reg] ++ (List.range sizes.length).flatMap (fun i =>
      (data.drop (sizes.take i).sum).take (sizes.getD i 0) ++
        [crc p ((if i = 0 then [BitVec.ofNat 8 (2 * dev.toNat), reg] else []) ++
          (data.drop (sizes.take i).sum).take (sizes.getD i 0))]) := by
  rw [writeMultiWire, blocks_eq_flatMap, preW_eq]

theorem requestWellFormed_iff (sizes : List Nat) (n : Nat) :
    requestWellFormed sizes n = true ↔ sizes ≠ [] ∧ sizes.sum = n := by
  simp [requestWellFormed, sizeSum]

theorem not_requestWellFormed_iff (sizes : List Nat) (n : Nat) :
    ¬ requestWellFormed sizes n = true ↔ sizes = [] ∨ sizes.sum ≠ n := by
  rw [requestWellFormed_iff]
  tauto

/-! Each operation is its bus transaction behind the checks of its operands and of the session; a multi-register request
that is ill formed is turned away (R132, R138, R151). -/

theorem exec_writeReg_eq_transaction (dev reg : Nat) (data : ByteString) (s : State) :
    exec (.writeReg dev reg data) s =
      transaction dev reg s fun d r => s.writeTransaction d (writeRegWire s.cfg.crc8 d r data) := rfl

theorem exec_readReg_eq_transaction (dev reg length : Nat) (s : State) :
    exec (.readReg dev reg length) s =
      transaction dev reg s fun d r => s.readTransaction d r (length + 1) (verifyReg s.cfg.crc8 d r length) := rfl

theorem exec_writeMulti_eq_transaction (dev reg : Nat) (sizes : List Nat) (data : ByteString) (s : State) :
    exec (.writeMulti dev reg sizes data) s =
      transaction dev reg s fun d r =>
        if requestWellFormed sizes data.length then
          s.writeTransaction d (writeMultiWire s.cfg.crc8 d r sizes data)
        else s.raise .protocolViolation := rfl

theorem exec_readMulti_eq_transaction (dev reg : Nat) (sizes : List Nat) (total : Nat) (s : State) :
    exec (.readMulti dev reg sizes total) s =
      transaction dev reg s fun d r =>
        if requestWellFormed sizes total then
          s.readTransaction d r (total + sizes.length) (verifyBlocks s.cfg.crc8 (preR d r) sizes)
        else s.raise .protocolViolation := rfl

/-! With a session open and the operands in range, the transaction itself. -/

section Open
variable {s : State} (dev : DevAddr) (reg : Byte) (hopen : s.session.port.isSome = true)
include hopen

theorem exec_writeReg_of_open (data : ByteString) :
    exec (.writeReg dev.toNat reg.toNat data) s =
      .next (s.writeTransaction dev (writeRegWire s.cfg.crc8 dev reg data)) := by
  rw [exec_writeReg_eq_transaction, transaction_of_open s dev reg _ hopen]

theorem exec_readReg_of_open (length : Nat) :
    exec (.readReg dev.toNat reg.toNat length) s =
      .next (s.readTransaction dev reg (length + 1) (verifyReg s.cfg.crc8 dev reg length)) := by
  rw [exec_readReg_eq_transaction, transaction_of_open s dev reg _ hopen]

theorem exec_writeMulti_of_wellFormed {sizes : List Nat} {data : ByteString} (hne : sizes ≠ [])
    (hsum : sizes.sum = data.length) :
    exec (.writeMulti dev.toNat reg.toNat sizes data) s =
      .next (s.writeTransaction dev (writeMultiWire s.cfg.crc8 dev reg sizes data)) := by
  rw [exec_writeMulti_eq_transaction, transaction_of_open s dev reg _ hopen,
    if_pos ((requestWellFormed_iff sizes data.length).mpr ⟨hne, hsum⟩)]

theorem exec_writeMulti_of_illFormed {sizes : List Nat} {data : ByteString}
    (hill : sizes = [] ∨ sizes.sum ≠ data.length) :
    exec (.writeMulti dev.toNat reg.toNat sizes data) s = .next (s.raise .protocolViolation) := by
  rw [exec_writeMulti_eq_transaction, transaction_of_open s dev reg _ hopen,
    if_neg ((not_requestWellFormed_iff sizes data.length).mpr hill)]

theorem exec_readMulti_of_wellFormed {sizes : List Nat} (hne : sizes ≠ []) :
    exec (.readMulti dev.toNat reg.toNat sizes sizes.sum) s =
      .next (s.readTransaction dev reg (sizes.sum + sizes.length)
        (verifyBlocks s.cfg.crc8 (preR dev reg) sizes)) := by
  rw [exec_readMulti_eq_transaction, transaction_of_open s dev reg _ hopen,
    if_pos ((requestWellFormed_iff sizes sizes.sum).mpr ⟨hne, rfl⟩)]

theorem exec_readMulti_of_illFormed {sizes : List Nat} {total : Nat} (hill : sizes = [] ∨ sizes.sum ≠ total) :
    exec (.readMulti dev.toNat reg.toNat sizes total) s = .next (s.raise .protocolViolation) := by
  rw [exec_readMulti_eq_transaction, transaction_of_open s dev reg _ hopen,
    if_neg ((not_requestWellFormed_iff sizes total).mpr hill)]

end Open

/-! The result of a transaction, as a function of the bus's answer. -/

/-- What a write returns (R134, R140). -/
def writeResult (r : BusReply) : Result := if replyAcknowledges r then .ok else .err .bus

/-- What a read of `n` bytes returns (R136, R137, R145). -/
def readResult (n : Nat) (verify : ByteString → Option ByteString) (r : BusReply) : Result :=
  match replyData n r with
  | none => .err .bus
  | some rx =>
    match verify rx with
    | some out => .okData out
    | none => .err .checksum

@[simp] theorem writeResult_busOk : writeResult .busOk = .ok := rfl
@[simp] theorem writeResult_busFail : writeResult .busFail = .err .bus := rfl

theorem writeResult_cases (r : BusReply) : writeResult r = .ok ∨ writeResult r = .err .bus := by
  rw [writeResult]
  split
  · exact .inl rfl
  · exact .inr rfl

section Read
variable {n : Nat} {verify : ByteString → Option ByteString}

@[simp] theorem readResult_busFail : readResult n verify .busFail = .err .bus := rfl

theorem readResult_of_verified {rx out : ByteString} (hlength : rx.length = n) (h : verify rx = some out) :
    readResult n verify (.busData rx) = .okData out := by
  simp [readResult, replyData, hlength, h]

theorem readResult_of_not_verified {rx : ByteString} (hlength : rx.length = n) (h : verify rx = none) :
    readResult n verify (.busData rx) = .err .checksum := by
  simp [readResult, replyData, hlength, h]

/-- A read's three results; the data, where there is any, is what verification made of `n` bytes. -/
theorem readResult_cases (n : Nat) (verify : ByteString → Option ByteString) (r : BusReply) :
    readResult n verify r = .err .bus ∨ readResult n verify r = .err .checksum ∨
      ∃ rx out, rx.length = n ∧ verify rx = some out ∧ readResult n verify r = .okData out := by
  cases r with
  | busOk => exact .inl rfl
  | busFail => exact .inl rfl
  | busData rx =>
    by_cases hlength : rx.length = n
    · cases hv : verify rx with
      | none => exact .inr (.inl (readResult_of_not_verified hlength hv))
      | some out => exact .inr (.inr ⟨rx, out, hlength, hv, readResult_of_verified hlength hv⟩)
    · exact .inl (by simp [readResult, replyData, hlength])

end Read

/-! A transaction's next state, whether an answer stands ready or a free one is taken (R128, R150). -/

theorem State.nextReply_of_nil (s : State) (h : s.replies = []) : s.nextReply = Config.freeReply s.freeIx := by
  rw [State.nextReply, h]

/-- A write is one bus call, `crc8.acc` dropped, and the result its answer gives. -/
theorem State.writeTransaction_eq (s : State) (dev : DevAddr) (W : ByteString) :
    s.writeTransaction dev W = { (s.busCall (.write dev W)).dropAcc8 with result := writeResult s.nextReply } := by
  rw [State.writeTransaction, writeResult]
  split <;> rfl

/-- A read is one bus call, `crc8.acc` dropped, and the result its answer gives. -/
theorem State.readTransaction_eq (s : State) (dev : DevAddr) (reg : Byte) (n : Nat)
    (verify : ByteString → Option ByteString) :
    s.readTransaction dev reg n verify =
      { (s.busCall (.read dev reg n)).dropAcc8 with result := readResult n verify s.nextReply } := by
  rw [State.readTransaction, readResult]
  cases replyData n s.nextReply with
  | none => rfl
  | some rx => dsimp only; cases verify rx <;> rfl

/-- One bus call that takes the answer standing ready, and `crc8.acc` dropped. -/
theorem State.busCall_dropAcc8_of_cons {s : State} (c : BusCall) {r : BusReply} {rs : List BusReply}
    (h : s.replies = r :: rs) :
    (s.busCall c).dropAcc8 = { s with
      replies := rs, busLog := s.busLog ++ [c],
      acc8 := .bottom (Config.freeAcc8 s.accIx), accIx := s.accIx + 1 } := by
  rw [State.busCall, State.popReply_of_cons s r rs h, State.dropAcc8]

/-- One bus call that takes a free answer, and `crc8.acc` dropped. -/
theorem State.busCall_dropAcc8_of_nil {s : State} (c : BusCall) (h : s.replies = []) :
    (s.busCall c).dropAcc8 = { s with
      freeIx := s.freeIx + 1, busLog := s.busLog ++ [c],
      acc8 := .bottom (Config.freeAcc8 s.accIx), accIx := s.accIx + 1 } := by
  rw [State.busCall, State.popReply_of_nil s h, State.dropAcc8]

section Write
variable {i : Instr} {s : State} {dev : DevAddr} {W : ByteString}

theorem exec_write_of_cons (hexec : exec i s = .next (s.writeTransaction dev W)) {r : BusReply} {rs : List BusReply}
    {res : Result} (h : s.replies = r :: rs) (hres : writeResult r = res) :
    exec i s = .next { s with
      replies := rs, busLog := s.busLog ++ [.write dev W],
      acc8 := .bottom (Config.freeAcc8 s.accIx), accIx := s.accIx + 1, result := res } := by
  rw [hexec, State.writeTransaction_eq, State.nextReply_of_cons s r rs h, hres, State.busCall_dropAcc8_of_cons _ h]

theorem exec_write_of_nil (hexec : exec i s = .next (s.writeTransaction dev W)) (h : s.replies = []) :
    ∃ res, (res = .ok ∨ res = .err .bus) ∧ exec i s = .next { s with
      freeIx := s.freeIx + 1, busLog := s.busLog ++ [.write dev W],
      acc8 := .bottom (Config.freeAcc8 s.accIx), accIx := s.accIx + 1, result := res } := by
  refine ⟨writeResult (Config.freeReply s.freeIx), writeResult_cases _, ?_⟩
  rw [hexec, State.writeTransaction_eq, State.nextReply_of_nil s h, State.busCall_dropAcc8_of_nil _ h]

end Write

section Read
variable {i : Instr} {s : State} {dev : DevAddr} {reg : Byte} {n : Nat} {verify : ByteString → Option ByteString}

theorem exec_read_of_cons (hexec : exec i s = .next (s.readTransaction dev reg n verify)) {r : BusReply}
    {rs : List BusReply} {res : Result} (h : s.replies = r :: rs) (hres : readResult n verify r = res) :
    exec i s = .next { s with
      replies := rs, busLog := s.busLog ++ [.read dev reg n],
      acc8 := .bottom (Config.freeAcc8 s.accIx), accIx := s.accIx + 1, result := res } := by
  rw [hexec, State.readTransaction_eq, State.nextReply_of_cons s r rs h, hres, State.busCall_dropAcc8_of_cons _ h]

theorem exec_read_of_nil (hexec : exec i s = .next (s.readTransaction dev reg n verify)) (h : s.replies = [])
    {m : Nat} (hlength : ∀ rx out, rx.length = n → verify rx = some out → out.length = m) :
    ∃ res, (res = .err .bus ∨ res = .err .checksum ∨ ∃ d, d.length = m ∧ res = .okData d) ∧
      exec i s = .next { s with
        freeIx := s.freeIx + 1, busLog := s.busLog ++ [.read dev reg n],
        acc8 := .bottom (Config.freeAcc8 s.accIx), accIx := s.accIx + 1, result := res } := by
  refine ⟨readResult n verify (Config.freeReply s.freeIx), ?outcome, ?state⟩
  case outcome =>
    obtain hbus | hchecksum | ⟨rx, out, hrx, hout, hok⟩ := readResult_cases n verify (Config.freeReply s.freeIx)
    · exact .inl hbus
    · exact .inr (.inl hchecksum)
    · exact .inr (.inr ⟨out, hlength rx out hrx hout, hok⟩)
  case state =>
    rw [hexec, State.readTransaction_eq, State.nextReply_of_nil s h, State.busCall_dropAcc8_of_nil _ h]

end Read

/-! The specification's examples, by the running values of the 8-bit engine (R134, R136). -/

/-- `CRC8_REF` starts from zero and returns the accumulator as it is (R9). -/
theorem crc_crc8Ref (B : ByteString) : crc Config.crc8Ref B = crcFold Config.crc8Ref 0x00#8 B :=
  crcOut_plain Config.crc8Ref _ rfl rfl

theorem crc8Ref_writeRegExample :
    crc Config.crc8Ref [0x22#8, 0x08#8, 0x05#8] = 0x26#8 ∧
      crc Config.crc8Ref [0x22#8, 0x08#8, 0x05#8, 0x26#8] = 0#8 := by
  obtain ⟨h22, h08, h05⟩ := crc8Ref_runningValues
  have h26 : crcStep Config.crc8Ref 0x26#8 0x26#8 = 0#8 := crcStep_own_eight _ _ rfl
  simp only [crc_crc8Ref, crcFold_cons, crcFold_nil, h22, h08, h05, h26, and_self]

theorem crc8Ref_readRegExample :
    crc Config.crc8Ref [0x22#8, 0x08#8, 0x23#8, 0x05#8, 0x39#8] = 0#8 ∧
      crc Config.crc8Ref [0x22#8, 0x08#8, 0x23#8, 0x05#8, 0x38#8] = 0x07#8 := by
  obtain ⟨h22, h08, -⟩ := crc8Ref_runningValues
  have h23 : crcStep Config.crc8Ref 0xBC#8 0x23#8 = 0xD4#8 := by decide
  have h05 : crcStep Config.crc8Ref 0xD4#8 0x05#8 = 0x39#8 := by decide
  have h39 : crcStep Config.crc8Ref 0x39#8 0x39#8 = 0#8 := crcStep_own_eight _ _ rfl
  have h38 : crcStep Config.crc8Ref 0x39#8 0x38#8 = 0x07#8 := by decide
  simp only [crc_crc8Ref, crcFold_cons, crcFold_nil, h22, h08, h23, h05, h39, h38, and_self]

/-- Settles O32: WRITE_REG is one write of WR1, whose last byte is the checksum of AW, reg and the data. -/
theorem writeRegSendsOneCheckedString : Obligations.WriteRegSendsOneCheckedString := by
  unfold Obligations.WriteRegSendsOneCheckedString
  refine ⟨fun s dev reg data hopen => ?operation, ?reference⟩
  case operation =>
    have hexec := exec_writeReg_of_open dev reg hopen data
    rw [writeRegWire_eq, preW_eq] at hexec
    exact ⟨rfl, fun rs h => exec_write_of_cons hexec h writeResult_busOk,
      fun rs h => exec_write_of_cons hexec h writeResult_busFail,
      fun h => exec_write_of_nil hexec h⟩
  case reference => exact crc8Ref_writeRegExample

/-! READ_REG's verification (R136, R137). -/

theorem verifyReg_of_crc_zero {p : CrcParams 8} {dev : DevAddr} {reg : Byte} (length : Nat) {rx : ByteString}
    (h : crc p (preR dev reg ++ rx) = 0#8) : verifyReg p dev reg length rx = some (rx.take length) := by
  rw [verifyReg, if_pos h]

theorem verifyReg_of_crc_ne_zero {p : CrcParams 8} {dev : DevAddr} {reg : Byte} (length : Nat) {rx : ByteString}
    (h : crc p (preR dev reg ++ rx) ≠ 0#8) : verifyReg p dev reg length rx = none := by
  rw [verifyReg, if_neg h]

/-- READ_REG's data is what it was asked for, without the checksum byte. -/
theorem verifyReg_length {p : CrcParams 8} {dev : DevAddr} {reg : Byte} {length : Nat} {rx out : ByteString}
    (hrx : rx.length = length + 1) (h : verifyReg p dev reg length rx = some out) : out.length = length := by
  rw [verifyReg, Option.ite_none_right_eq_some, Option.some.injEq] at h
  rw [← h.2, List.length_take, hrx]
  omega

/-- Settles O34: READ_REG is one read of `length + 1` bytes, its result by the answer and by `verifyReg`. -/
theorem readRegVerifiesAllReceivedBytes : Obligations.ReadRegVerifiesAllReceivedBytes := by
  unfold Obligations.ReadRegVerifiesAllReceivedBytes
  refine ⟨fun s dev reg length hopen => ?operation, ?reference⟩
  case operation =>
    have hexec := exec_readReg_of_open dev reg hopen length
    dsimp only
    rw [← preR_eq]
    refine ⟨rfl, ?verified, ?unverified, fun rs h => exec_read_of_cons hexec h readResult_busFail,
      fun h => exec_read_of_nil hexec h fun rx out => verifyReg_length⟩
    case verified =>
      intro data c rs hdata h hcrc
      rw [List.append_assoc] at hcrc
      have hverify := verifyReg_of_crc_zero length hcrc
      rw [← hdata, List.take_left, hdata] at hverify
      have hlength : (data ++ [c]).length = length + 1 := by rw [List.length_append, hdata, List.length_singleton]
      exact exec_read_of_cons hexec h (readResult_of_verified hlength hverify)
    case unverified =>
      intro rx rs hrx h hcrc
      exact exec_read_of_cons hexec h (readResult_of_not_verified hrx (verifyReg_of_crc_ne_zero length hcrc))
  case reference => exact crc8Ref_readRegExample

/-- Settles O35: WRITE_MULTI is one write of WRM, taken apart into the blocks, or the request is turned away. -/
theorem writeMultiSendsInterleavedBlocks : Obligations.WriteMultiSendsInterleavedBlocks := by
  unfold Obligations.WriteMultiSendsInterleavedBlocks
  intro s dev reg sizes data hopen
  refine ⟨rfl, exec_writeMulti_of_illFormed dev reg hopen, fun hne hsum => ?wellFormed⟩
  case wellFormed =>
    have hexec := exec_writeMulti_of_wellFormed dev reg hopen hne hsum
    rw [writeMultiWire_eq] at hexec
    exact ⟨fun rs h => exec_write_of_cons hexec h writeResult_busOk,
      fun rs h => exec_write_of_cons hexec h writeResult_busFail,
      fun h => exec_write_of_nil hexec h⟩

/-! READ_MULTI's walk over the received blocks (R71, R131, R145). -/

/-- What the checksum of block `j` covers before the block: `pre` for the first one, nothing for the others (R131). -/
def blockLead (pre : ByteString) (j : Nat) : ByteString := if j = 0 then pre else []

/-- Block `j` of a received string: segment `j` and its checksum byte (R71). -/
def receivedBlock (sizes : List Nat) (rx : ByteString) (j : Nat) : ByteString :=
  (rx.drop (rxBlockOffset sizes j)).take (sizes.getD j 0 + 1)

/-- Every block of a received string has checksum zero (R145). -/
def BlocksVerify (p : CrcParams 8) (pre : ByteString) (sizes : List Nat) (rx : ByteString) : Prop :=
  ∀ j, j < sizes.length → crc p (blockLead pre j ++ receivedBlock sizes rx j) = 0#8

/-- The segments of a received string joined, without the checksum bytes (R145). -/
def receivedData (sizes : List Nat) (rx : ByteString) : ByteString :=
  (List.range sizes.length).flatMap fun j => (receivedBlock sizes rx j).take (sizes.getD j 0)

@[simp] theorem blockLead_nil (j : Nat) : blockLead [] j = [] := ite_self []
@[simp] theorem blockLead_zero (pre : ByteString) : blockLead pre 0 = pre := rfl
@[simp] theorem blockLead_succ (pre : ByteString) (j : Nat) : blockLead pre (j + 1) = [] := rfl

@[simp] theorem receivedBlock_cons_zero (n : Nat) (sizes : List Nat) (rx : ByteString) :
    receivedBlock (n :: sizes) rx 0 = rx.take (n + 1) := rfl

@[simp] theorem receivedBlock_cons_succ (n : Nat) (sizes : List Nat) (rx : ByteString) (j : Nat) :
    receivedBlock (n :: sizes) rx (j + 1) = receivedBlock sizes (rx.drop (n + 1)) j := by
  have hoffset : rxBlockOffset (n :: sizes) (j + 1) = n + 1 + rxBlockOffset sizes j := by
    simp only [rxBlockOffset, segOffset, List.take_succ_cons, List.sum_cons]
    omega
  rw [receivedBlock, receivedBlock, hoffset, List.drop_drop, List.getD_cons_succ]

/-- The walk's one step: the first block with `pre` before it, every later one alone. -/
theorem blocksVerify_cons (p : CrcParams 8) (pre : ByteString) (n : Nat) (sizes : List Nat) (rx : ByteString) :
    BlocksVerify p pre (n :: sizes) rx ↔
      crc p (pre ++ rx.take (n + 1)) = 0#8 ∧ BlocksVerify p [] sizes (rx.drop (n + 1)) := by
  simp only [BlocksVerify, List.length_cons, Nat.forall_lt_succ_left', blockLead_zero, blockLead_succ, blockLead_nil,
    receivedBlock_cons_zero, receivedBlock_cons_succ]

theorem receivedData_cons (n : Nat) (sizes : List Nat) (rx : ByteString) :
    receivedData (n :: sizes) rx = (rx.take (n + 1)).take n ++ receivedData sizes (rx.drop (n + 1)) := by
  simp [receivedData, List.range_succ_eq_map, List.flatMap_map]

/-- The walk succeeds exactly when every block verifies, and then it joins the segments (R145). -/
theorem verifyBlocks_eq_some_iff (p : CrcParams 8) (pre : ByteString) (sizes : List Nat) (rx out : ByteString) :
    verifyBlocks p pre sizes rx = some out ↔ BlocksVerify p pre sizes rx ∧ out = receivedData sizes rx := by
  induction sizes generalizing pre rx out with
  | nil => simp [verifyBlocks, BlocksVerify, receivedData, eq_comm]
  | cons n sizes ih =>
    rw [verifyBlocks, blocksVerify_cons, receivedData_cons]
    by_cases hcrc : crc p (pre ++ rx.take (n + 1)) = 0#8
    · rw [if_pos hcrc]
      cases hrest : verifyBlocks p [] sizes (rx.drop (n + 1)) with
      | none =>
        have hnot : ¬ BlocksVerify p [] sizes (rx.drop (n + 1)) := fun h => by
          rw [(ih [] _ _).mpr ⟨h, rfl⟩] at hrest
          cases hrest
        simp [hnot]
      | some rest =>
        obtain ⟨hverify, rfl⟩ := (ih [] _ rest).mp hrest
        simp [hcrc, hverify, eq_comm]
    · simp [hcrc]

/-- One block that does not verify, and the walk returns nothing (R146). -/
theorem verifyBlocks_eq_none {p : CrcParams 8} {pre : ByteString} {sizes : List Nat} {rx : ByteString} {j : Nat}
    (hj : j < sizes.length) (h : crc p (blockLead pre j ++ receivedBlock sizes rx j) ≠ 0#8) :
    verifyBlocks p pre sizes rx = none := by
  rw [Option.eq_none_iff_forall_ne_some]
  intro out hout
  exact h (((verifyBlocks_eq_some_iff p pre sizes rx out).mp hout).1 j hj)

theorem receivedData_length (sizes : List Nat) (rx : ByteString) (h : rx.length = sizes.sum + sizes.length) :
    (receivedData sizes rx).length = sizes.sum := by
  induction sizes generalizing rx with
  | nil => rfl
  | cons n sizes ih =>
    rw [List.sum_cons, List.length_cons] at h
    have hrest : (rx.drop (n + 1)).length = sizes.sum + sizes.length := by rw [List.length_drop]; omega
    rw [receivedData_cons, List.length_append, ih _ hrest, List.length_take, List.length_take, List.sum_cons]
    omega

/-- The walk's data is as long as the segments together. -/
theorem verifyBlocks_length {p : CrcParams 8} {pre : ByteString} {sizes : List Nat} {rx out : ByteString}
    (hrx : rx.length = sizes.sum + sizes.length) (h : verifyBlocks p pre sizes rx = some out) :
    out.length = sizes.sum := by
  obtain ⟨-, rfl⟩ := (verifyBlocks_eq_some_iff p pre sizes rx out).mp h
  exact receivedData_length sizes rx hrx

/-- Settles O37: READ_MULTI is one read of all blocks, its result by the answer and by the walk, or the request is turned
away. -/
theorem readMultiVerifiesEveryBlock : Obligations.ReadMultiVerifiesEveryBlock := by
  unfold Obligations.ReadMultiVerifiesEveryBlock
  intro s dev reg sizes total hopen
  dsimp only
  rw [← preR_eq]
  refine ⟨rfl, exec_readMulti_of_illFormed dev reg hopen, fun hne hsum => ?wellFormed⟩
  case wellFormed =>
    subst hsum
    have hexec := exec_readMulti_of_wellFormed dev reg hopen hne
    refine ⟨?verified, ?unverified, fun rs h => exec_read_of_cons hexec h readResult_busFail,
      fun h => exec_read_of_nil hexec h fun rx out => verifyBlocks_length⟩
    case verified =>
      intro rx rs hrx h hverify
      have hwalk : verifyBlocks s.cfg.crc8 (preR dev reg) sizes rx = some (receivedData sizes rx) :=
        (verifyBlocks_eq_some_iff _ _ _ _ _).mpr ⟨hverify, rfl⟩
      exact exec_read_of_cons hexec h (readResult_of_verified hrx hwalk)
    case unverified =>
      intro rx rs j hrx h hj hcrc
      exact exec_read_of_cons hexec h (readResult_of_not_verified hrx (verifyBlocks_eq_none hj hcrc))

/-- Settles O39: of the ways READ_MULTI completes, only the walk that verified every block returns data. -/
theorem readMultiIsAllOrNothing : Obligations.ReadMultiIsAllOrNothing := by
  unfold Obligations.ReadMultiIsAllOrNothing
  intro s t dev reg sizes total h
  rw [exec_readMulti_eq_transaction, transaction_next_iff] at h
  obtain ⟨⟨hdev, -⟩, -, ht⟩ := h
  split at ht
  case isFalse => exact .inr ⟨.protocolViolation, by rw [← ht]; rfl⟩
  case isTrue hwf =>
    obtain ⟨-, rfl⟩ := (requestWellFormed_iff sizes total).mp hwf
    obtain ⟨res, hstate, ⟨-, hres⟩ | ⟨rx, -, -, -, hres⟩ | ⟨rx, out, hreply, hrx, hwalk, hres⟩⟩ :=
      readTransaction_cases s (BitVec.ofNat 7 dev) (BitVec.ofNat 8 reg) (sizes.sum + sizes.length)
        (verifyBlocks s.cfg.crc8 (preR (BitVec.ofNat 7 dev) (BitVec.ofNat 8 reg)) sizes)
    · exact .inr ⟨.bus, by rw [← ht, hstate, hres]⟩
    · exact .inr ⟨.checksum, by rw [← ht, hstate, hres]⟩
    · obtain ⟨hverify, -⟩ := (verifyBlocks_eq_some_iff _ _ _ _ _).mp hwalk
      rw [preR_eq, BitVec.toNat_ofNat, Nat.mod_eq_of_lt hdev] at hverify
      exact .inl ⟨out, by rw [← ht, hstate, hres], verifyBlocks_length hrx hwalk, rx, hrx, hreply, hverify⟩

/-! One bus call or none (R148, R150). -/

/-- No call was made, `crc8.acc` is kept, and the result is ProtocolViolation. -/
def TurnedAway (s t : State) : Prop :=
  t.result = .err .protocolViolation ∧ t.busLog = s.busLog ∧ t.acc8 = s.acc8

/-- One call was made, `crc8.acc` is `⊥`, and the result is not ProtocolViolation. -/
def CalledOnce (s t : State) : Prop :=
  t.result ≠ .err .protocolViolation ∧ (∃ c, t.busLog = s.busLog ++ [c]) ∧ t.acc8.isBottom = true

theorem raise_protocolViolation_turnedAway (s : State) : TurnedAway s (s.raise .protocolViolation) := ⟨rfl, rfl, rfl⟩

theorem writeTransaction_calledOnce (s : State) (dev : DevAddr) (W : ByteString) :
    CalledOnce s (s.writeTransaction dev W) := by
  obtain ⟨-, h⟩ | ⟨-, h⟩ := writeTransaction_cases s dev W <;> rw [h] <;> exact ⟨by simp, ⟨_, rfl⟩, rfl⟩

theorem readTransaction_calledOnce (s : State) (dev : DevAddr) (reg : Byte) (n : Nat)
    (verify : ByteString → Option ByteString) : CalledOnce s (s.readTransaction dev reg n verify) := by
  obtain ⟨res, h, hres⟩ := readTransaction_cases s dev reg n verify
  have hne : res ≠ .err .protocolViolation := by
    obtain ⟨-, rfl⟩ | ⟨_, -, -, -, rfl⟩ | ⟨_, _, -, -, -, rfl⟩ := hres <;> simp
  rw [h]
  exact ⟨hne, ⟨_, rfl⟩, rfl⟩

/-- Settles O41: by operation; only the multi-register ones can be turned away. -/
theorem transactionMakesOneBusCallAndDropsTheAccumulator :
    Obligations.TransactionMakesOneBusCallAndDropsTheAccumulator := by
  unfold Obligations.TransactionMakesOneBusCallAndDropsTheAccumulator
  intro i s t h hi
  change TurnedAway s t ∨ CalledOnce s t
  obtain ⟨d, r, b, rfl⟩ | ⟨d, r, n, rfl⟩ | ⟨d, r, l, b, rfl⟩ | ⟨d, r, l, n, rfl⟩ := hi <;>
    simp only [exec_writeReg_eq_transaction, exec_readReg_eq_transaction, exec_writeMulti_eq_transaction,
      exec_readMulti_eq_transaction, transaction_next_iff] at h <;>
    obtain ⟨-, -, rfl⟩ := h
  · exact .inr (writeTransaction_calledOnce ..)
  · exact .inr (readTransaction_calledOnce ..)
  · split
    · exact .inr (writeTransaction_calledOnce ..)
    · exact .inl (raise_protocolViolation_turnedAway s)
  · split
    · exact .inr (readTransaction_calledOnce ..)
    · exact .inl (raise_protocolViolation_turnedAway s)

end Sys2Proof.Machine
end

/-! ### Releasing the session (R178) -/

section
namespace Sys2Proof.Machine

theorem removeName_eq_nil_iff (c : Nat) (xs : List Nat) : removeName c xs = [] ↔ ¬ ∃ x ∈ xs, x ≠ c := by
  simp [removeName]

theorem removeName_of_not_mem (c : Nat) (xs : List Nat) (h : c ∉ xs) : removeName c xs = xs := by
  rw [removeName, List.filter_eq_self]
  intro x hx
  have hne : x ≠ c := fun hxc => h (hxc ▸ hx)
  simpa using hne

section Disconnect
variable (x : Session) (c : Nat)

theorem Session.disconnect_of_held (h : ∃ y ∈ x.consumers, y ≠ c) :
    x.disconnect c = { x with consumers := removeName c x.consumers } := by
  rw [Session.disconnect, if_neg]
  rwa [List.isEmpty_iff, removeName_eq_nil_iff, not_not]

theorem Session.disconnect_of_not_held (h : ¬ ∃ y ∈ x.consumers, y ≠ c) : x.disconnect c = .closed := by
  rw [Session.disconnect, if_pos]
  rwa [List.isEmpty_iff, removeName_eq_nil_iff]

theorem Session.disconnect_consumers : (x.disconnect c).consumers = removeName c x.consumers := by
  by_cases h : ∃ y ∈ x.consumers, y ≠ c
  · rw [x.disconnect_of_held c h]
  · rw [x.disconnect_of_not_held c h, Session.closed_consumers, (removeName_eq_nil_iff c x.consumers).mpr h]

/-- The connection stays exactly while a consumer other than `c` holds it. -/
theorem Session.disconnect_port :
    (x.disconnect c).port = if ∃ y ∈ x.consumers, y ≠ c then x.port else none := by
  by_cases h : ∃ y ∈ x.consumers, y ≠ c
  · rw [x.disconnect_of_held c h, if_pos h]
  · rw [x.disconnect_of_not_held c h, if_neg h, Session.closed_port]

/-- A consistent session that nobody holds is closed (R176). -/
theorem Session.eq_closed_of_consumers_nil {x : Session} (hinv : sessionInv x) (h : x.consumers = []) :
    x = .closed := by
  obtain ⟨port, consumers⟩ := x
  obtain rfl : consumers = [] := h
  obtain ⟨hopen, -⟩ := hinv
  have hport : port = none := by simpa using hopen
  rw [hport, Session.closed]

theorem Session.disconnect_of_not_mem (hinv : sessionInv x) (h : c ∉ x.consumers) : x.disconnect c = x := by
  have hremove : removeName c x.consumers = x.consumers := removeName_of_not_mem c x.consumers h
  by_cases hheld : ∃ y ∈ x.consumers, y ≠ c
  · rw [x.disconnect_of_held c hheld, hremove]
  · have hnil : x.consumers = [] := by rw [← hremove, removeName_eq_nil_iff]; exact hheld
    rw [x.disconnect_of_not_held c hheld, Session.eq_closed_of_consumers_nil hinv hnil]

end Disconnect

theorem runInput_disconnect (s : State) (c : Nat) :
    runInput (.disconnect c) s = .next { s with session := s.session.disconnect c, result := .done } := rfl

/-- Settles O47: the session after `disconnect`, by its consumers and its port; R178's no-op for a stranger. -/
theorem disconnectReleasesTheConsumer : Obligations.DisconnectReleasesTheConsumer := by
  unfold Obligations.DisconnectReleasesTheConsumer
  intro s c hinv
  refine ⟨⟨_, runInput_disconnect s c, rfl, fun x => ?consumers, s.session.disconnect_port c⟩, fun hc => ?stranger⟩
  case consumers => rw [s.session.disconnect_consumers c, mem_removeName]
  case stranger => rw [runInput_disconnect, s.session.disconnect_of_not_mem c hinv hc]

end Sys2Proof.Machine
end

/-! ### What an error changes (R168) -/

section
namespace Sys2Proof.Machine

/-- DECODE of one byte is its row of the decoder's table, session or none. -/
theorem exec_decode_singleton_of_dstep {s : State} {b : Byte} {d : Decoder} {ev : List Event}
    (h : dstep s.dec b = (d, ev)) : exec (.decode [b]) s = .next { s with dec := d, result := .events ev } := by
  have hexec : exec (.decode [b]) s = .next (s.receive [b]) := rfl
  rw [hexec, State.receive_singleton, h]

/-- CHECKMSG can fail only where there is a trailer to check (R121, R122). -/
theorem trailer_of_checkMsgResult_err {cfg : Cfg} {F : ByteString} {e : ErrorClass}
    (h : checkMsgResult cfg F = .err e) : cfg.trailer16 = true := by
  by_contra htrailer
  rw [checkMsgResult_of_no_trailer cfg F (Bool.eq_false_of_not_eq_true htrailer)] at h
  cases h

/-- A CHECKMSG that ends in an error has used up `crc16.acc` and changed nothing else (R123). -/
theorem runInput_checkMsg_of_err {s t : State} {F : ByteString} {e : ErrorClass}
    (h : runInput (.checkMsg F) s = .next t) (he : t.result = .err e) :
    t = { s with acc16 := .bottom (Config.freeAcc16 s.accIx), accIx := s.accIx + 1, result := .err e } := by
  have hres : checkMsgResult s.cfg F = .err e := by
    rw [runInput_checkMsg, Host.Outcome.next.injEq] at h
    rw [← he, ← h, State.return]
  rw [runInput_checkMsg_of_trailer (trailer_of_checkMsgResult_err hres) hres, Host.Outcome.next.injEq] at h
  exact h.symm

theorem writeResult_eq_err {r : BusReply} {e : ErrorClass} (h : writeResult r = .err e) : e = .bus := by
  obtain hr | hr := writeResult_cases r
  · rw [hr] at h; cases h
  · rw [hr] at h; cases h; rfl

theorem readResult_eq_err {n : Nat} {verify : ByteString → Option ByteString} {r : BusReply} {e : ErrorClass}
    (h : readResult n verify r = .err e) : e = .checksum ∨ e = .bus := by
  obtain hr | hr | ⟨rx, out, -, -, hr⟩ := readResult_cases n verify r
  · rw [hr] at h; cases h; exact .inr rfl
  · rw [hr] at h; cases h; exact .inl rfl
  · rw [hr] at h; cases h

theorem State.writeTransaction_of_err {s : State} {d : DevAddr} {W : ByteString} {e : ErrorClass}
    (h : (s.writeTransaction d W).result = .err e) :
    e = .bus ∧ s.writeTransaction d W = (s.busCall (.write d W)).dropAcc8.raise e := by
  rw [State.writeTransaction_eq] at h ⊢
  have hres : writeResult s.nextReply = .err e := h
  rw [hres]
  exact ⟨writeResult_eq_err hres, rfl⟩

theorem State.readTransaction_of_err {s : State} {d : DevAddr} {r : Byte} {n : Nat}
    {verify : ByteString → Option ByteString} {e : ErrorClass}
    (h : (s.readTransaction d r n verify).result = .err e) :
    (e = .checksum ∨ e = .bus) ∧ s.readTransaction d r n verify = (s.busCall (.read d r n)).dropAcc8.raise e := by
  rw [State.readTransaction_eq] at h ⊢
  have hres : readResult n verify s.nextReply = .err e := h
  rw [hres]
  exact ⟨readResult_eq_err hres, rfl⟩

/-- An instruction ends in an error in two ways: turned away as a ProtocolViolation with nothing changed, or after one
bus call that dropped `crc8.acc` (R168). -/
theorem exec_err_cases {i : Instr} {s t : State} {e : ErrorClass} (h : exec i s = .next t) (he : t.result = .err e) :
    (e = .protocolViolation ∧ t = s.raise e) ∨
    ((e = .checksum ∨ e = .bus) ∧ ∃ c, t = (s.busCall c).dropAcc8.raise e) := by
  rcases exec_cases i s t h with ⟨-, -, hne, -⟩ | ⟨-, -, hne, -⟩ | ⟨-, -, hne, -⟩ | ⟨B, rfl, -⟩ | ⟨rfl, -⟩ |
    ⟨d, W, rfl, -⟩ | ⟨d, r, n, v, rfl, -⟩
  case inr.inr.inr.inl => cases he
  case inr.inr.inr.inr.inl => cases he; exact .inl ⟨rfl, rfl⟩
  case inr.inr.inr.inr.inr.inl =>
    obtain ⟨hbus, ht⟩ := State.writeTransaction_of_err he
    exact .inr ⟨.inr hbus, .write d W, ht⟩
  case inr.inr.inr.inr.inr.inr =>
    obtain ⟨hclass, ht⟩ := State.readTransaction_of_err he
    exact .inr ⟨hclass, .read d r n, ht⟩
  all_goals exact absurd he (hne e)

/-- The state after one bus call, `crc8.acc` dropped and an error raised, field by field. -/
theorem State.busCall_dropAcc8_raise_eq (s : State) (c : BusCall) (e : ErrorClass) :
    (s.busCall c).dropAcc8.raise e = { s with
      acc8 := .bottom (Config.freeAcc8 s.accIx), accIx := s.accIx + 1,
      replies := s.popReply.replies, freeIx := s.popReply.freeIx, busLog := s.busLog ++ [c], result := .err e } := by
  rw [State.busCall_frame, State.dropAcc8, State.raise, State.return]

/-- Settles O42: the framing errors by their rows of the decoder's table, CHECKMSG's by its trailer, an instruction's by
the two ways it can end in an error. -/
theorem errorsChangeExactlyWhatTheTableSays : Obligations.ErrorsChangeExactlyWhatTheTableSays := by
  unfold Obligations.ErrorsChangeExactlyWhatTheTableSays
  refine ⟨fun s hstate => ?unexpectedStart, fun s b hstate hstart hend hescape => ?invalidEscape,
    fun s t F h he => runInput_checkMsg_of_err h he, fun i s t e h he => ?instruction⟩
  case unexpectedStart => exact exec_decode_singleton_of_dstep (dstep_accumulating_start s.dec hstate)
  case invalidEscape =>
    have hb : reserved b = false := (reserved_eq_false_iff b).mpr ⟨hstart, hend, hescape⟩
    exact exec_decode_singleton_of_dstep (dstep_escaped_literal s.dec b hstate hb)
  case instruction =>
    obtain ⟨rfl, rfl⟩ | ⟨hcall, c, rfl⟩ := exec_err_cases h he
    · exact ⟨fun _ => rfl, by simp⟩
    · have hclass : e ≠ .protocolViolation := by rintro rfl; simp at hcall
      exact ⟨fun hpv => absurd hpv hclass, fun _ => ⟨c, State.busCall_dropAcc8_raise_eq s c e⟩⟩

end Sys2Proof.Machine
end

/-! ### DECODE on what ENCODE wrote, and on any bytes (R102, R105, R114 to R118) -/

section
namespace Sys2Proof.Machine

/-- DECODE runs the decoder over the bytes, returns the events and touches nothing else (R103, R105). -/
theorem exec_decode (B : ByteString) (s : State) :
    exec (.decode B) s = .next { s with
      dec := (decodeBytes s.dec B).1, result := .events (decodeBytes s.dec B).2 } := rfl

/-! Runs of the decoder, put together from their parts. -/

section Runs
variable {s : State} {d d₁ d₂ : Decoder} {b : Byte} {A B : ByteString} {ev ev₁ ev₂ : List Event}

theorem exec_decode_of_decodeBytes (h : decodeBytes s.dec B = (d, ev)) :
    exec (.decode B) s = .next { s with dec := d, result := .events ev } := by
  rw [exec_decode, h]

theorem decodeBytes_cons_of_dstep (hb : dstep d b = (d₁, ev₁)) (hB : decodeBytes d₁ B = (d₂, ev₂)) :
    decodeBytes d (b :: B) = (d₂, ev₁ ++ ev₂) := by
  rw [decodeBytes_cons, hb, hB]

theorem decodeBytes_append_of_decodeBytes (hA : decodeBytes d A = (d₁, ev₁)) (hB : decodeBytes d₁ B = (d₂, ev₂)) :
    decodeBytes d (A ++ B) = (d₂, ev₁ ++ ev₂) := by
  rw [decodeBytes_append, hA, hB]

theorem decodeBytes_singleton_of_dstep (hb : dstep d b = (d₁, ev₁)) : decodeBytes d [b] = (d₁, ev₁) := by
  rw [decodeBytes_cons, decodeBytes_nil, List.append_nil, hb]

/-- Inside a frame, the rest of the content and the END complete the message (R110). -/
theorem decodeBytes_escaped_end (buf X : ByteString) :
    decodeBytes { state := .accumulating, buf := buf } (escaped X ++ [0xFA#8]) =
      ({ state := .waitingForStart, buf := [] }, [.msg (buf ++ X)]) :=
  decodeBytes_append_of_decodeBytes (decodeBytes_escaped buf X)
    (decodeBytes_singleton_of_dstep (dstep_accumulating_end _ rfl))

/-- A whole frame, from a decoder whose START leaves it inside a frame: what that transition left in the buffer leads the
message. -/
theorem decodeBytes_encodeFrame_of_dstep {buf : ByteString} (P C : ByteString)
    (h : dstep d 0xF1#8 = ({ state := .accumulating, buf := buf }, ev)) :
    decodeBytes d (encodeFrame P C) =
      ({ state := .waitingForStart, buf := [] }, ev ++ [.msg (buf ++ (P ++ C))]) := by
  have hframe : encodeFrame P C = 0xF1#8 :: (escaped (P ++ C) ++ [0xFA#8]) := rfl
  rw [hframe]
  exact decodeBytes_cons_of_dstep h (decodeBytes_escaped_end buf (P ++ C))

theorem decodeBytes_encodeFrame_of_waiting (P C : ByteString) (h : d.state = .waitingForStart) :
    decodeBytes d (encodeFrame P C) = ({ state := .waitingForStart, buf := [] }, [.msg (P ++ C)]) :=
  decodeBytes_encodeFrame_of_dstep P C (dstep_waiting_start d h)

end Runs

/-- Settles O26: the START is R107, R109 or R112 by the decoder's state; after each the content and the END complete the
message. -/
theorem decodeOfEncodeRoundTrip : Obligations.DecodeOfEncodeRoundTrip := by
  unfold Obligations.DecodeOfEncodeRoundTrip
  intro s P C
  refine ⟨fun hstate => ?waiting, fun hstate => ?accumulating, fun hstate => ?escaped⟩
  case waiting => exact exec_decode_of_decodeBytes (decodeBytes_encodeFrame_of_waiting P C hstate)
  case accumulating =>
    exact exec_decode_of_decodeBytes (decodeBytes_encodeFrame_of_dstep P C (dstep_accumulating_start s.dec hstate))
  case escaped =>
    have hstart := dstep_escaped_reserved s.dec 0xF1#8 hstate (by decide)
    have hmsg : s.dec.buf ++ [0xF1#8] ++ P ++ C = s.dec.buf ++ [0xF1#8] ++ (P ++ C) := List.append_assoc ..
    rw [hmsg]
    exact exec_decode_of_decodeBytes (decodeBytes_encodeFrame_of_dstep P C hstart)

/-- The content of the frame SENDMSG builds: the message, and its checksum when the trailer is enabled (R120). -/
def sentContent (cfg : Cfg) (M : ByteString) : ByteString := if cfg.trailer16 then M ++ csum cfg.crc16 M else M

/-- The wire string is a frame of that content, so a waiting decoder emits it as one message (R64, R117). -/
theorem decodeBytes_sendMsgWire {d : Decoder} (cfg : Cfg) (M : ByteString) (h : d.state = .waitingForStart) :
    decodeBytes d (sendMsgWire cfg M) = ({ state := .waitingForStart, buf := [] }, [.msg (sentContent cfg M)]) := by
  cases htrailer : cfg.trailer16 with
  | false =>
    rw [sendMsgWire_of_no_trailer cfg M htrailer, decodeBytes_encodeFrame_of_waiting M [] h, sentContent, htrailer,
      List.append_nil, if_neg Bool.false_ne_true]
  | true =>
    rw [sendMsgWire_of_trailer cfg M htrailer, decodeBytes_encodeFrame_of_waiting M _ h, sentContent, if_pos htrailer]

/-- CHECKMSG strips the trailer that SENDMSG appended, when CFG.CRC16 is legal (R97, R121). -/
theorem checkMsgResult_sentContent {cfg : Cfg} (hz : ZeroResidue cfg.crc16) (M : ByteString) :
    checkMsgResult cfg (sentContent cfg M) = .okMessage M := by
  cases htrailer : cfg.trailer16 with
  | false => rw [sentContent, htrailer, if_neg Bool.false_ne_true, checkMsgResult_of_no_trailer cfg M htrailer]
  | true =>
    have hresidue := hz M
    rw [csum, ser_sixteen] at hresidue
    rw [sentContent, if_pos htrailer, csum, ser_sixteen]
    exact checkMsgResult_of_crc_zero cfg M _ _ htrailer hresidue

/-- Settles O30: the delivered wire string is a whole frame, its content the message and its trailer, and that content
passes the check. -/
theorem messageSentIsMessageDelivered : Obligations.MessageSentIsMessageDelivered := by
  unfold Obligations.MessageSentIsMessageDelivered
  intro s M hz hopen hstate
  refine ⟨sendMsgWire s.cfg M, sentContent s.cfg M, _, _, _, runInput_sendMsg_of_open s M hopen, rfl,
    deliver_of_open _ _ ?stillOpen, ?events, runInput_checkMsg _ _, ?result, ?decoder⟩
  case stillOpen => rwa [afterTrailer_session]
  case events => rw [State.receive_result, afterTrailer_dec, decodeBytes_sendMsgWire s.cfg M hstate]
  case result => rw [State.return_result, State.receive_cfg, afterTrailer_cfg, checkMsgResult_sentContent hz M]
  case decoder =>
    rw [State.return_dec, afterTrailer_dec, State.receive_dec, afterTrailer_dec, decodeBytes_sendMsgWire s.cfg M hstate]

/-- Settles O25: the decoder's state persists between the calls, so the second run goes on where the first ended. -/
theorem fragmentationIndependence : Obligations.FragmentationIndependence := by
  unfold Obligations.FragmentationIndependence
  intro s A B
  refine ⟨_, _, _, _, _, exec_decode A s, rfl, exec_decode B _, rfl, exec_decode (A ++ B) s, ?decoder, ?events⟩
  case decoder => rw [decodeBytes_append]
  case events => rw [decodeBytes_append]

/-- Settles O23: by the recursion of the run over the bytes; a received byte and a delivered chunk are the same run behind
the session's gate. -/
theorem decodeAppliesOneTransitionPerByte : Obligations.DecodeAppliesOneTransitionPerByte := by
  unfold Obligations.DecodeAppliesOneTransitionPerByte
  intro s
  refine ⟨fun B => rfl, exec_decode [] s, fun hopen B => deliver_of_open s B hopen, fun b B => ?transition⟩
  case transition =>
    refine ⟨_, _, _, _, exec_decode [b] s, rfl, exec_decode B _, rfl, ?cons, fun hopen => ?received⟩
    case cons =>
      rw [exec_decode, decodeBytes_cons, decodeBytes_cons, decodeBytes_nil, List.append_nil]
    case received =>
      rw [exec_decodeFrame, whenConnected_of_open _ _ hopen]
      rfl

/-- One transition emits one event at most (R114). -/
theorem dstep_events_length_le_one (d : Decoder) (b : Byte) : (dstep d b).2.length ≤ 1 := by
  rcases dstep_cases d b with ⟨-, -, h⟩ | ⟨-, -, h⟩ | ⟨-, -, h⟩ | ⟨-, -, h⟩ | ⟨-, -, h⟩ | ⟨-, -, h⟩ | ⟨-, -, h⟩ |
    ⟨-, -, h⟩ <;> rw [h] <;> simp

theorem decodeBytes_events_length_le (d : Decoder) (B : ByteString) : (decodeBytes d B).2.length ≤ B.length := by
  induction B generalizing d with
  | nil => exact Nat.le_refl 0
  | cons b B ih =>
    have hfirst := dstep_events_length_le_one d b
    have hrest := ih (dstep d b).1
    rw [decodeBytes_cons, List.length_append, List.length_cons]
    omega

/-- The three transitions that emit, and what they emit (R109, R110, R113). -/
theorem dstep_of_mem_events {d : Decoder} {b : Byte} {e : Event} (h : e ∈ (dstep d b).2) :
    (dstep d b).2 = [e] ∧
    ((d.state = .accumulating ∧ b = 0xF1#8 ∧ e = .framingError .unexpectedStart) ∨
     (d.state = .accumulating ∧ b = 0xFA#8 ∧ e = .msg d.buf) ∨
     (d.state = .escaped ∧ reserved b = false ∧ e = .framingError .invalidEscape)) := by
  rcases dstep_cases d b with ⟨-, -, hd⟩ | ⟨-, -, hd⟩ | ⟨-, -, hd⟩ | ⟨hst, hb, hd⟩ | ⟨hst, hb, hd⟩ | ⟨-, -, hd⟩ |
    ⟨-, -, hd⟩ | ⟨hst, hb, hd⟩ <;> rw [hd] at h ⊢ <;> simp only [List.not_mem_nil, List.mem_singleton] at h <;> subst h
  case inr.inr.inr.inl => exact ⟨rfl, .inl ⟨hst, hb, rfl⟩⟩
  case inr.inr.inr.inr.inl => exact ⟨rfl, .inr (.inl ⟨hst, hb, rfl⟩)⟩
  case inr.inr.inr.inr.inr.inr.inr => exact ⟨rfl, .inr (.inr ⟨hst, hb, rfl⟩)⟩

/-- Settles O24: by the rows of the decoder's table; a call's events are those of its bytes. -/
theorem atMostOneEventPerByte : Obligations.AtMostOneEventPerByte := by
  unfold Obligations.AtMostOneEventPerByte
  refine ⟨fun d b e he => ?transition, fun s t B ev h hev => ?call⟩
  case transition =>
    obtain ⟨honly, hstart | hend | ⟨hst, hb, hinvalid⟩⟩ := dstep_of_mem_events he
    · exact ⟨honly, .inl hstart⟩
    · exact ⟨honly, .inr (.inl hend)⟩
    · obtain ⟨h1, h2, h3⟩ := (reserved_eq_false_iff b).mp hb
      exact ⟨honly, .inr (.inr ⟨hst, h1, h2, h3, hinvalid⟩)⟩
  case call =>
    rw [exec_decode, Host.Outcome.next.injEq] at h
    rw [← h, Result.events.injEq] at hev
    rw [← hev]
    exact decodeBytes_events_length_le s.dec B

/-- A frame broken by an ESCAPE and a literal, and what follows up to the next START: the frame is given up with one
InvalidEscape and the rest is skipped (R106, R113). -/
theorem decodeBytes_brokenFrame {d : Decoder} {b : Byte} (X : ByteString) {R : ByteString}
    (hstate : d.state = .waitingForStart) (hb : reserved b = false) (hR : 0xF1#8 ∉ R) :
    decodeBytes d ([0xF1#8] ++ escaped X ++ [0xFF#8, b] ++ R) =
      ({ state := .waitingForStart, buf := [] }, [.framingError .invalidEscape]) := by
  have hopened : decodeBytes d ([0xF1#8] ++ escaped X) = ({ state := .accumulating, buf := X }, []) :=
    decodeBytes_append_of_decodeBytes (decodeBytes_singleton_of_dstep (dstep_waiting_start d hstate))
      (decodeBytes_escaped [] X)
  have hbroken : decodeBytes { state := .accumulating, buf := X } [0xFF#8, b] =
      ({ state := .waitingForStart, buf := [] }, [.framingError .invalidEscape]) :=
    decodeBytes_cons_of_dstep (dstep_accumulating_escape _ rfl)
      (decodeBytes_singleton_of_dstep (dstep_escaped_literal _ b rfl hb))
  exact decodeBytes_append_of_decodeBytes (decodeBytes_append_of_decodeBytes hopened hbroken) (decodeBytes_waiting [] R hR)

/-- Settles O27: after the broken frame the decoder waits, so each whole frame behind it is one message. -/
theorem resynchronisationAfterInvalidEscape : Obligations.ResynchronisationAfterInvalidEscape := by
  unfold Obligations.ResynchronisationAfterInvalidEscape
  intro s X R T P₂ b hstate hstart hend hescape hR
  have hbroken := decodeBytes_brokenFrame X hstate ((reserved_eq_false_iff b).mpr ⟨hstart, hend, hescape⟩) hR
  have hframe (P : ByteString) : decodeBytes { state := .waitingForStart, buf := [] } (encodeFrame P []) =
      ({ state := .waitingForStart, buf := [] }, [.msg P]) := by
    rw [decodeBytes_encodeFrame_of_waiting P [] rfl, List.append_nil]
  refine ⟨?recovered, ?spurious⟩
  case recovered => exact exec_decode_of_decodeBytes (decodeBytes_append_of_decodeBytes hbroken (hframe P₂))
  case spurious =>
    have htail : encodeFrame T [] = [0xF1#8] ++ escaped T ++ [0xFA#8] := by
      rw [encodeFrame, List.append_nil, Config.START, Config.END]
    have hspurious := decodeBytes_append_of_decodeBytes hbroken (hframe T)
    rw [htail, ← List.append_assoc, ← List.append_assoc] at hspurious
    exact exec_decode_of_decodeBytes (decodeBytes_append_of_decodeBytes hspurious (hframe P₂))

/-- What the model counts is what the statement writes out (R17). -/
theorem reservedCount_eq_countP (X : ByteString) :
    reservedCount X = X.countP (fun b => decide (b = 0xF1#8 ∨ b = 0xFA#8 ∨ b = 0xFF#8)) := by
  refine List.countP_congr fun b _ => ?_
  rw [reserved_iff, decide_eq_true_eq]

/-- A byte's escaped image is the byte, unreserved, or ESCAPE and the reserved byte (R100). -/
theorem esc_cases (b : Byte) : (esc b = [b] ∧ reserved b = false) ∨ (esc b = [0xFF#8, b] ∧ reserved b = true) := by
  cases h : reserved b with
  | false => exact .inl ⟨by rw [esc, h, if_neg Bool.false_ne_true], rfl⟩
  | true => exact .inr ⟨by rw [esc, if_pos h, Config.ESCAPE], rfl⟩

/-- Decoding a frame gives its content back, so the frame determines it (R102, R117). -/
theorem append_eq_of_encodeFrame_eq {P C P' C' : ByteString} (h : encodeFrame P C = encodeFrame P' C') :
    P ++ C = P' ++ C' := by
  have hdecoded := decodeBytes_encodeFrame_of_waiting (d := .reset) P C rfl
  rw [h, decodeBytes_encodeFrame_of_waiting (d := .reset) P' C' rfl] at hdecoded
  simpa using hdecoded.symm

/-- Settles O17: the length by counting the reserved bytes, the units are the escaped images of the content's bytes, and a
frame is decoded to its content. -/
theorem encodeOutputShapeAndInjectivity : Obligations.EncodeOutputShapeAndInjectivity := by
  unfold Obligations.EncodeOutputShapeAndInjectivity
  refine ⟨fun P C => ?length, fun P C => ⟨(P ++ C).map esc, ?frame, fun u hu => ?unit⟩,
    fun P C P' C' h => append_eq_of_encodeFrame_eq h⟩
  case length => rw [encodeFrame_length, reservedCount_eq_countP]
  case frame => rw [encodeFrame, escaped, List.flatMap_def, Config.START, Config.END, List.singleton_append]
  case unit =>
    obtain ⟨b, -, rfl⟩ := List.mem_map.mp hu
    obtain ⟨h, hb⟩ | ⟨h, hb⟩ := esc_cases b
    · exact .inl ⟨b, h, (reserved_eq_false_iff b).mp hb⟩
    · exact .inr ⟨b, h, (reserved_iff b).mp hb⟩

end Sys2Proof.Machine
end

/-! ### Escape pairs, and the session gate on received bytes (R61, R182) -/

section
namespace Sys2Proof.Machine

/-- With no session open the gate refuses, whatever is behind it (R151, R182). -/
theorem whenConnected_of_closed (s u : State) (h : s.session.port = none) :
    whenConnected s u = .refused .notConnected := by
  simp [whenConnected, Session.isOpen, h]

/-! A pair is its two bytes, received in one step while a session is open (R61). -/

theorem exec_escStart (s : State) : exec .escStart s = whenConnected s (s.receive [0xFF#8, 0xF1#8]) := rfl
theorem exec_escEnd (s : State) : exec .escEnd s = whenConnected s (s.receive [0xFF#8, 0xFA#8]) := rfl
theorem exec_escEsc (s : State) : exec .escEsc s = whenConnected s (s.receive [0xFF#8, 0xFF#8]) := rfl

section Pair
variable {s : State} {d d₁ d₂ : Decoder} {b : Byte} {B : ByteString} {ev ev₁ ev₂ : List Event}

theorem whenConnected_receive_of_decodeBytes (hopen : s.session.port.isSome = true) (h : decodeBytes s.dec B = (d, ev)) :
    whenConnected s (s.receive B) = .next { s with dec := d, result := .events ev } := by
  rw [whenConnected_of_open _ _ hopen, State.receive, h]

theorem decodeBytes_pair (h₁ : dstep d 0xFF#8 = (d₁, ev₁)) (h₂ : dstep d₁ b = (d₂, ev₂)) :
    decodeBytes d [0xFF#8, b] = (d₂, ev₁ ++ ev₂) :=
  decodeBytes_cons_of_dstep h₁ (decodeBytes_singleton_of_dstep h₂)

/-- Inside a frame the pair stands for its reserved value (R61, R108, R112). -/
theorem decodeBytes_pair_of_accumulating (h : d.state = .accumulating) (hb : reserved b = true) :
    decodeBytes d [0xFF#8, b] = ({ state := .accumulating, buf := d.buf ++ [b] }, []) :=
  decodeBytes_pair (dstep_accumulating_escape d h) (dstep_escaped_reserved _ b rfl hb)

/-- Outside a frame the ESCAPE is forgotten, and the second byte is received as it is (R79, R106). -/
theorem decodeBytes_pair_of_waiting (h : d.state = .waitingForStart) (hb : dstep d b = (d₂, ev₂)) :
    decodeBytes d [0xFF#8, b] = (d₂, ev₂) :=
  decodeBytes_pair (dstep_waiting_of_ne_start d 0xFF#8 h (by decide)) hb

/-- After an ESCAPE the pair's first byte is the literal FF, and the second acts inside the frame (R112). -/
theorem decodeBytes_pair_of_escaped (h : d.state = .escaped)
    (hb : dstep { state := .accumulating, buf := d.buf ++ [0xFF#8] } b = (d₂, ev₂)) :
    decodeBytes d [0xFF#8, b] = (d₂, ev₂) :=
  decodeBytes_pair (dstep_escaped_reserved d 0xFF#8 h (by decide)) hb

end Pair

/-- Settles O21: in each decoder state the first byte is one row of the table for all three pairs, the second its own. -/
theorem escapePairInEveryDecoderState : Obligations.EscapePairInEveryDecoderState := by
  unfold Obligations.EscapePairInEveryDecoderState
  intro s hopen
  simp only [exec_escStart, exec_escEnd, exec_escEsc]
  have hpair {b : Byte} {d : Decoder} {ev : List Event} (h : decodeBytes s.dec [0xFF#8, b] = (d, ev)) :=
    whenConnected_receive_of_decodeBytes hopen h
  refine ⟨fun hstate => ?accumulating, fun hstate => ?waiting, fun hstate => ?escaped⟩
  case accumulating =>
    exact ⟨hpair (decodeBytes_pair_of_accumulating hstate (by decide)),
      hpair (decodeBytes_pair_of_accumulating hstate (by decide)),
      hpair (decodeBytes_pair_of_accumulating hstate (by decide))⟩
  case waiting =>
    exact ⟨hpair (decodeBytes_pair_of_waiting hstate (dstep_waiting_start s.dec hstate)),
      hpair (decodeBytes_pair_of_waiting hstate (dstep_waiting_of_ne_start s.dec 0xFA#8 hstate (by decide))),
      hpair (decodeBytes_pair_of_waiting hstate (dstep_waiting_of_ne_start s.dec 0xFF#8 hstate (by decide)))⟩
  case escaped =>
    exact ⟨hpair (decodeBytes_pair_of_escaped hstate (dstep_accumulating_start _ rfl)),
      hpair (decodeBytes_pair_of_escaped hstate (dstep_accumulating_end _ rfl)),
      hpair (decodeBytes_pair_of_escaped hstate (dstep_accumulating_escape _ rfl))⟩

/-- A literal operand that holds a reserved byte is refused, session or none (R62, log entry 14). -/
theorem exec_literal_of_reserved (b : Byte) (s : State) (h : reserved b = true) :
    exec (.literal b) s = .refused .operandRange := by
  have hexec : exec (.literal b) s = execLiteral b s := rfl
  rw [hexec, execLiteral, if_pos h]

/-- Received bytes and pairs that can be encoded are received behind the gate, whatever they are (R182). -/
theorem exec_received_eq_whenConnected {i : Instr} (s : State) (hwf : i.wellFormed = true)
    (hi : i = .startSym ∨ i = .endSym ∨ i = .escapeSym ∨ (∃ b, i = .literal b) ∨ i = .escStart ∨ i = .escEnd ∨
      i = .escEsc) : ∃ B, exec i s = whenConnected s (s.receive B) := by
  obtain rfl | rfl | rfl | ⟨b, rfl⟩ | rfl | rfl | rfl := hi
  case inr.inr.inr.inl =>
    have hb : reserved b = false := by simpa [Instr.wellFormed] using hwf
    exact ⟨[b], exec_literal_of_not_reserved b s hb⟩
  all_goals exact ⟨_, rfl⟩

/-- Settles O22: what is received and SENDMSG stand behind the gate; DECODE, ENCODE and CHECKMSG do not. -/
theorem receivedBytesNeedAnOpenSession : Obligations.ReceivedBytesNeedAnOpenSession := by
  unfold Obligations.ReceivedBytesNeedAnOpenSession
  intro s hclosed
  refine ⟨fun i hwf hi => ?received, fun b hb => exec_literal_of_reserved b s ((reserved_iff b).mpr hb),
    fun B => whenConnected_of_closed s _ hclosed, fun M => whenConnected_of_closed s _ hclosed,
    fun B => ⟨_, exec_decode B s⟩, fun P C => ⟨_, exec_encode P C s⟩, fun F => ⟨_, runInput_checkMsg s F⟩⟩
  case received =>
    obtain ⟨B, hexec⟩ := exec_received_eq_whenConnected s hwf hi
    rw [hexec, whenConnected_of_closed s _ hclosed]

end Sys2Proof.Machine
end

/-! ### Multi-register transactions: the wire string, the answer of a correct device, unexpected answers (R138 to R152) -/

section
namespace Sys2Proof.Machine

/-! The blocks of a stream, one by one. -/

section Blocks
variable (p : CrcParams 8)

/-- The first block is the first segment and its checksum. -/
theorem blocks_cons_take (pre : ByteString) {n : Nat} (sizes : List Nat) {D : ByteString} (hn : n ≤ D.length) :
    (blocks p pre (n :: sizes) D).take (n + 1) = D.take n ++ [crc p (pre ++ D.take n)] := by
  have hlength : (D.take n ++ [crc p (pre ++ D.take n)]).length = n + 1 := by
    rw [List.length_append, List.length_take, List.length_singleton, Nat.min_eq_left hn]
  rw [blocks, csum_eight, List.take_left' hlength]

/-- Behind the first block stands the stream of the remaining registers. -/
theorem blocks_cons_drop (pre : ByteString) {n : Nat} (sizes : List Nat) {D : ByteString} (hn : n ≤ D.length) :
    (blocks p pre (n :: sizes) D).drop (n + 1) = blocks p [] sizes (D.drop n) := by
  have hlength : (D.take n ++ [crc p (pre ++ D.take n)]).length = n + 1 := by
    rw [List.length_append, List.length_take, List.length_singleton, Nat.min_eq_left hn]
  rw [blocks, csum_eight, List.drop_left' hlength]

theorem segment_cons_succ (n : Nat) (sizes : List Nat) (i : Nat) (D : ByteString) :
    segment (n :: sizes) (i + 1) D = segment sizes i (D.drop n) := by
  rw [segment, segment, segOffset, segOffset, List.take_succ_cons, List.sum_cons, List.drop_drop, List.getD_cons_succ]

/-- Block `i` of the stream is segment `i` and one checksum byte (R71, R141). -/
theorem receivedBlock_blocks (sizes : List Nat) (pre D : ByteString) (hsum : sizes.sum = D.length) (i : Nat)
    (hi : i < sizes.length) : ∃ c, receivedBlock sizes (blocks p pre sizes D) i = segment sizes i D ++ [c] := by
  induction sizes generalizing pre D i with
  | nil => exact absurd hi (Nat.not_lt_zero i)
  | cons n sizes ih =>
    rw [List.sum_cons] at hsum
    have hn : n ≤ D.length := by omega
    cases i with
    | zero => exact ⟨_, blocks_cons_take p pre sizes hn⟩
    | succ i =>
      have hrest : sizes.sum = (D.drop n).length := by rw [List.length_drop]; omega
      rw [receivedBlock_cons_succ, blocks_cons_drop p pre sizes hn, segment_cons_succ]
      exact ih [] (D.drop n) hrest i (Nat.lt_of_succ_lt_succ hi)

/-- The segments of the stream, joined without the checksum bytes, are the data (R141). -/
theorem receivedData_blocks (sizes : List Nat) (pre D : ByteString) (hsum : sizes.sum = D.length) :
    receivedData sizes (blocks p pre sizes D) = D := by
  induction sizes generalizing pre D with
  | nil => exact (List.eq_nil_of_length_eq_zero hsum.symm).symm
  | cons n sizes ih =>
    rw [List.sum_cons] at hsum
    have hn : n ≤ D.length := by omega
    have hrest : sizes.sum = (D.drop n).length := by rw [List.length_drop]; omega
    have htake : (D.take n).length = n := by rw [List.length_take, Nat.min_eq_left hn]
    rw [receivedData_cons, blocks_cons_take p pre sizes hn, blocks_cons_drop p pre sizes hn, ih [] (D.drop n) hrest,
      List.take_left' htake, List.take_append_drop]

end Blocks

/-- Settles O45: the answer is the stream of blocks that the walk takes apart again, and it has the requested length. -/
theorem readBackFromACorrectDevice : Obligations.ReadBackFromACorrectDevice := by
  unfold Obligations.ReadBackFromACorrectDevice
  intro s dev reg sizes data rs hz hopen hne hsum
  dsimp only
  rw [← preR_eq, ← blocks_eq_flatMap]
  intro hreply
  have hexec := exec_readMulti_of_wellFormed dev reg hopen hne
  have hlength : (blocks s.cfg.crc8 (preR dev reg) sizes data).length = sizes.sum + sizes.length := by
    rw [blocks_length _ _ _ _ hsum, hsum]
  have hwalk := verifyBlocks_blocks s.cfg.crc8 hz sizes (preR dev reg) data hsum
  rw [← hsum]
  exact ⟨_, exec_read_of_cons hexec hreply (readResult_of_verified hlength hwalk), rfl⟩

/-- Settles O36: behind the register byte the wire string is the stream of blocks, so its parts are that stream's. -/
theorem writeMultiWireLayout : Obligations.WriteMultiWireLayout := by
  unfold Obligations.WriteMultiWireLayout
  intro p dev reg sizes data _ hsum W o
  have hW : W = reg :: blocks p (preW dev reg) sizes data := rfl
  have hdrop (i : Nat) : W.drop (1 + o i + i) = (blocks p (preW dev reg) sizes data).drop (rxBlockOffset sizes i) := by
    have hoffset : 1 + o i + i = rxBlockOffset sizes i + 1 := by
      have ho : o i = segOffset sizes i := rfl
      rw [ho, rxBlockOffset]
      omega
    rw [hW, hoffset, List.drop_succ_cons]
  have hblock (i : Nat) : (W.drop (1 + o i + i)).take (sizes.getD i 0) =
      (receivedBlock sizes (blocks p (preW dev reg) sizes data) i).take (sizes.getD i 0) := by
    rw [hdrop, receivedBlock, List.take_take, Nat.min_eq_left (Nat.le_succ _)]
  refine ⟨?length, fun i hi => ?block, ?data⟩
  case length =>
    rw [hW, List.length_cons, blocks_length p sizes _ data hsum]
    omega
  case block =>
    rw [hdrop]
    exact receivedBlock_blocks p sizes (preW dev reg) data hsum i hi
  case data =>
    simp only [hblock]
    exact receivedData_blocks p sizes (preW dev reg) data hsum

/-! Answers that do not fit the call (R126, R127, D17, log entry 5). -/

theorem writeResult_busData (rx : ByteString) : writeResult (.busData rx) = .err .bus := rfl

theorem readResult_of_misfit {n : Nat} {r : BusReply} (verify : ByteString → Option ByteString)
    (h : r = .busOk ∨ ∃ rx, r = .busData rx ∧ rx.length ≠ n) : readResult n verify r = .err .bus := by
  obtain rfl | ⟨rx, rfl, hlength⟩ := h
  · rfl
  · simp [readResult, replyData, hlength]

/-- Settles O38: each of the four transactions is its one call, and the misfit answer is a BusError. -/
theorem unexpectedBusAnswerIsBusError : Obligations.UnexpectedBusAnswerIsBusError := by
  unfold Obligations.UnexpectedBusAnswerIsBusError
  intro s dev reg n sizes data r rs hopen hreply hne failed
  refine ⟨?write, fun hr => ?readReg, fun hr => ?readMulti⟩
  case write =>
    rintro ⟨rx, rfl⟩
    exact ⟨exec_write_of_cons (exec_writeReg_of_open dev reg hopen data) hreply (writeResult_busData rx),
      fun hsum => exec_write_of_cons (exec_writeMulti_of_wellFormed dev reg hopen hne hsum) hreply
        (writeResult_busData rx)⟩
  case readReg => exact exec_read_of_cons (exec_readReg_of_open dev reg hopen n) hreply (readResult_of_misfit _ hr)
  case readMulti =>
    exact exec_read_of_cons (exec_readMulti_of_wellFormed dev reg hopen hne) hreply (readResult_of_misfit _ hr)

/-! One register is the one-register case (R149). -/

theorem requestWellFormed_singleton (n : Nat) : requestWellFormed [n] n = true :=
  (requestWellFormed_iff [n] n).mpr ⟨List.cons_ne_nil n [], List.sum_singleton⟩

theorem writeMultiWire_singleton (p : CrcParams 8) (dev : DevAddr) (reg : Byte) (data : ByteString) :
    writeMultiWire p dev reg [data.length] data = writeRegWire p dev reg data := by
  rw [writeMultiWire, writeRegWire, blocks, blocks, List.take_length, List.append_nil, List.append_assoc]

/-- On a string of the requested length the walk over one block is READ_REG's verification. -/
theorem verifyBlocks_singleton (p : CrcParams 8) (dev : DevAddr) (reg : Byte) {n : Nat} {rx : ByteString}
    (h : rx.length = n + 1) : verifyBlocks p (preR dev reg) [n] rx = verifyReg p dev reg n rx := by
  simp [verifyBlocks, verifyReg, List.take_of_length_le (Nat.le_of_eq h)]

/-- A read depends on its verification only for strings of the requested length. -/
theorem readResult_congr {n : Nat} {verify verify' : ByteString → Option ByteString}
    (h : ∀ rx, rx.length = n → verify rx = verify' rx) (r : BusReply) :
    readResult n verify r = readResult n verify' r := by
  cases r with
  | busOk => rfl
  | busFail => rfl
  | busData rx =>
    by_cases hlength : rx.length = n
    · simp only [readResult, replyData, if_pos hlength, h rx hlength]
    · simp only [readResult, replyData, if_neg hlength]

/-- Settles O40: the request is well formed, and the wire string and the verification are those of one register. -/
theorem singleRegisterIsOneRegisterMulti : Obligations.SingleRegisterIsOneRegisterMulti := by
  unfold Obligations.SingleRegisterIsOneRegisterMulti
  intro s dev reg
  refine ⟨fun data => ?write, fun n => ?read⟩
  case write =>
    rw [exec_writeReg_eq_transaction, exec_writeMulti_eq_transaction]
    simp only [if_pos (requestWellFormed_singleton data.length), writeMultiWire_singleton]
  case read =>
    rw [exec_readReg_eq_transaction, exec_readMulti_eq_transaction]
    congr 1
    funext d r
    rw [if_pos (requestWellFormed_singleton n), List.length_singleton]
    rw [State.readTransaction_eq, State.readTransaction_eq,
      readResult_congr fun rx h => (verifyBlocks_singleton s.cfg.crc8 d r h).symm]

/-! The order of a transaction's conditions (R132, R138, R151). -/

theorem transaction_of_outOfRange {dev reg : Nat} (h : 128 ≤ dev ∨ 256 ≤ reg) (s : State)
    (body : DevAddr → Byte → State) : transaction dev reg s body = .refused .operandRange := by
  have hrange : ¬ operandsInRange dev reg = true := by rw [operandsInRange_iff]; omega
  rw [transaction, if_neg hrange]

theorem transaction_of_closed {dev reg : Nat} (hdev : dev < 128) (hreg : reg < 256) {s : State}
    (h : s.session.port = none) (body : DevAddr → Byte → State) :
    transaction dev reg s body = .refused .notConnected := by
  rw [transaction, if_pos ((operandsInRange_iff dev reg).mpr ⟨hdev, hreg⟩), whenConnected_of_closed s _ h]

/-- The four operations stand behind the same conditions (R165). -/
theorem exec_operation_eq_transaction {dev reg n : Nat} {sizes : List Nat} {data : ByteString} {i : Instr}
    (hi : i ∈ [Instr.writeReg dev reg data, .readReg dev reg n, .writeMulti dev reg sizes data,
      .readMulti dev reg sizes n]) (s : State) : ∃ body, exec i s = transaction dev reg s body := by
  simp only [List.mem_cons, List.not_mem_nil, or_false] at hi
  obtain rfl | rfl | rfl | rfl := hi
  · exact ⟨_, exec_writeReg_eq_transaction dev reg data s⟩
  · exact ⟨_, exec_readReg_eq_transaction dev reg n s⟩
  · exact ⟨_, exec_writeMulti_eq_transaction dev reg sizes data s⟩
  · exact ⟨_, exec_readMulti_eq_transaction dev reg sizes n s⟩

/-- Settles O44: the first two conditions by the shared `transaction`, the third by the operations' own equations. -/
theorem orderOfConditionsInATransaction : Obligations.OrderOfConditionsInATransaction := by
  unfold Obligations.OrderOfConditionsInATransaction
  intro s dev reg n sizes data ops
  refine ⟨fun hout i hi => ?outOfRange, fun hdev hreg hclosed i hi => ?closed, fun hdev hreg hopen => ?completes⟩
  case outOfRange =>
    obtain ⟨body, hexec⟩ := exec_operation_eq_transaction hi s
    rw [hexec, transaction_of_outOfRange hout]
  case closed =>
    obtain ⟨body, hexec⟩ := exec_operation_eq_transaction hi s
    rw [hexec, transaction_of_closed hdev hreg hclosed]
  case completes =>
    have hd : (BitVec.ofNat 7 dev).toNat = dev := Nat.mod_eq_of_lt hdev
    have hr : (BitVec.ofNat 8 reg).toNat = reg := Nat.mod_eq_of_lt hreg
    refine ⟨fun i hi => ?next, fun hill => ?writeMulti, fun hill => ?readMulti⟩
    case next =>
      obtain ⟨body, hexec⟩ := exec_operation_eq_transaction hi s
      exact ⟨_, hexec.trans ((transaction_next_iff dev reg s _ body).mpr ⟨⟨hdev, hreg⟩, hopen, rfl⟩)⟩
    case writeMulti =>
      have hexec := exec_writeMulti_of_illFormed (BitVec.ofNat 7 dev) (BitVec.ofNat 8 reg) hopen hill
      rwa [hd, hr] at hexec
    case readMulti =>
      have hexec := exec_readMulti_of_illFormed (BitVec.ofNat 7 dev) (BitVec.ofNat 8 reg) hopen hill
      rwa [hd, hr] at hexec

end Sys2Proof.Machine
end

/-! ### Codes: the addressing bytes, and decoding against encoding (R61, R62, R67, R74) -/

section
namespace Sys2Proof.Machine

/-! The addressing bytes by their bits (R67). -/

section AddrByte
variable (dev : DevAddr)

theorem addrByteW_getLsbD_zero : (addrByteW dev).getLsbD 0 = false := by
  simp [addrByteW]

theorem addrByteR_getLsbD_zero : (addrByteR dev).getLsbD 0 = true := by
  simp [addrByteR]

theorem addrByteW_getLsbD_succ {k : Nat} (hk : k < 7) : (addrByteW dev).getLsbD (k + 1) = dev.getLsbD k := by
  simp [addrByteW, hk, show k + 1 < 8 by omega]

theorem addrByteR_getLsbD_succ {k : Nat} (hk : k < 7) : (addrByteR dev).getLsbD (k + 1) = dev.getLsbD k := by
  have hone : (1#8).getLsbD (k + 1) = false := by simp [BitVec.getLsbD_one]
  rw [addrByteR, BitVec.getLsbD_or, addrByteW_getLsbD_succ dev hk, hone, Bool.or_false]

theorem devOfAddrByte_getLsbD (b : Byte) {k : Nat} (hk : k < 7) : (devOfAddrByte b).getLsbD k = b.getLsbD (k + 1) := by
  simp [devOfAddrByte, hk, Nat.add_comm 1 k]

@[simp] theorem devOfAddrByte_addrByteW : devOfAddrByte (addrByteW dev) = dev :=
  BitVec.eq_of_getLsbD_eq fun k hk => by rw [devOfAddrByte_getLsbD _ hk, addrByteW_getLsbD_succ dev hk]

@[simp] theorem devOfAddrByte_addrByteR : devOfAddrByte (addrByteR dev) = dev :=
  BitVec.eq_of_getLsbD_eq fun k hk => by rw [devOfAddrByte_getLsbD _ hk, addrByteR_getLsbD_succ dev hk]

/-- A byte is its direction bit and its bits 7..1. -/
theorem byte_eq_of_address_bits_eq {a b : Byte} (hdirection : a.getLsbD 0 = b.getLsbD 0)
    (haddress : ∀ k, k < 7 → a.getLsbD (k + 1) = b.getLsbD (k + 1)) : a = b := by
  refine BitVec.eq_of_getLsbD_eq fun i hi => ?_
  cases i with
  | zero => exact hdirection
  | succ k => exact haddress k (Nat.lt_of_succ_lt_succ hi)

theorem addrByteW_devOfAddrByte {b : Byte} (h : b.getLsbD 0 = false) : addrByteW (devOfAddrByte b) = b :=
  byte_eq_of_address_bits_eq (by rw [addrByteW_getLsbD_zero, h]) fun k hk => by
    rw [addrByteW_getLsbD_succ _ hk, devOfAddrByte_getLsbD b hk]

theorem addrByteR_devOfAddrByte {b : Byte} (h : b.getLsbD 0 = true) : addrByteR (devOfAddrByte b) = b :=
  byte_eq_of_address_bits_eq (by rw [addrByteR_getLsbD_zero, h]) fun k hk => by
    rw [addrByteR_getLsbD_succ _ hk, devOfAddrByte_getLsbD b hk]

theorem addrByteW_toNat : (addrByteW dev).toNat = 2 * dev.toNat := by
  have hdev : dev.toNat < 128 := dev.isLt
  rw [addrByteW_eq_ofNat, BitVec.toNat_ofNat]
  omega

theorem addrByteR_toNat : (addrByteR dev).toNat = 2 * dev.toNat + 1 := by
  have hdev : dev.toNat < 128 := dev.isLt
  rw [addrByteR_eq_ofNat, BitVec.toNat_ofNat]
  omega

theorem decodeAddr_addrByteW : decodeAddr (addrByteW dev) = .addrW dev := by
  rw [decodeAddr, addrByteW_getLsbD_zero, if_neg Bool.false_ne_true, devOfAddrByte_addrByteW]

theorem decodeAddr_addrByteR : decodeAddr (addrByteR dev) = .addrR dev := by
  rw [decodeAddr, if_pos (addrByteR_getLsbD_zero dev), devOfAddrByte_addrByteR]

end AddrByte

/-- Settles O31: the two bytes by their values and their bits. -/
theorem addressingBytes : Obligations.AddressingBytes := by
  unfold Obligations.AddressingBytes
  intro s dev
  exact ⟨addrByteW dev, addrByteR dev, rfl, rfl, addrByteW_toNat dev, addrByteR_toNat dev, addrByteW_getLsbD_zero dev,
    addrByteR_getLsbD_zero dev, fun k hk => ⟨addrByteW_getLsbD_succ dev hk, addrByteR_getLsbD_succ dev hk⟩,
    congrArg Except.ok (decodeAddr_addrByteW dev), congrArg Except.ok (decodeAddr_addrByteR dev)⟩

/-- Every well-formed instruction is read back from its code (R81). -/
theorem decode_encode {i : Instr} (hwf : i.wellFormed = true) : Sys2Proof.decode (Sys2Proof.encode i) = .ok i := by
  cases i
  case literal b =>
    have hb : reserved b = false := by simpa [Instr.wellFormed] using hwf
    exact congrArg Except.ok (decodeFrame_of_not_reserved b hb)
  case addrW dev => exact congrArg Except.ok (decodeAddr_addrByteW dev)
  case addrR dev => exact congrArg Except.ok (decodeAddr_addrByteR dev)
  all_goals rfl

theorem encode_decodeFrame (b : Byte) :
    Sys2Proof.encode (decodeFrame b) = .frame b ∧ (decodeFrame b).wellFormed = true := by
  cases hb : reserved b with
  | false =>
    rw [decodeFrame_of_not_reserved b hb]
    exact ⟨rfl, by rw [Instr.wellFormed, hb, Bool.not_false]⟩
  | true => obtain rfl | rfl | rfl := (reserved_iff b).mp hb <;> exact ⟨rfl, rfl⟩

/-- Only ESCAPE and a reserved byte are read as a pair (R61). -/
theorem decodePair_eq_ok_iff (b₁ b₂ : Byte) (i : Instr) :
    decodePair b₁ b₂ = .ok i ↔ b₁ = 0xFF#8 ∧
      ((b₂ = 0xF1#8 ∧ i = .escStart) ∨ (b₂ = 0xFA#8 ∧ i = .escEnd) ∨ (b₂ = 0xFF#8 ∧ i = .escEsc)) := by
  rw [decodePair, Config.START, Config.END, Config.ESCAPE]
  split_ifs <;> simp_all [eq_comm]

theorem encode_decodeAddr (b : Byte) :
    Sys2Proof.encode (decodeAddr b) = .addr b ∧ (decodeAddr b).wellFormed = true := by
  cases hb : b.getLsbD 0 with
  | false =>
    rw [decodeAddr, hb, if_neg Bool.false_ne_true]
    exact ⟨congrArg Code.addr (addrByteW_devOfAddrByte hb), rfl⟩
  | true =>
    rw [decodeAddr, if_pos hb]
    exact ⟨congrArg Code.addr (addrByteR_devOfAddrByte hb), rfl⟩

/-- Settles O55: by the instruction in one direction, by the code's format in the other. -/
theorem decodeAndEncodeAgree : Obligations.DecodeAndEncodeAgree := by
  unfold Obligations.DecodeAndEncodeAgree
  refine ⟨fun i hwf => decode_encode hwf, fun c i hcmd hdecode => ?_⟩
  cases c with
  | cmd op a => exact absurd rfl (hcmd op a)
  | frame b =>
    obtain rfl : decodeFrame b = i := Except.ok.inj hdecode
    exact encode_decodeFrame b
  | pair b₁ b₂ =>
    obtain ⟨rfl, ⟨rfl, rfl⟩ | ⟨rfl, rfl⟩ | ⟨rfl, rfl⟩⟩ := (decodePair_eq_ok_iff b₁ b₂ i).mp hdecode <;> exact ⟨rfl, rfl⟩
  | addr b =>
    obtain rfl : decodeAddr b = i := Except.ok.inj hdecode
    exact encode_decodeAddr b

/-- Settles O53: each word is the code of its row's instruction; the last is no operation code. -/
theorem wordsDecodeToTheirRows : Obligations.WordsDecodeToTheirRows := by
  unfold Obligations.WordsDecodeToTheirRows
  have hread (i : Instr) (hwf : i.wellFormed = true) := decode_encode hwf
  exact ⟨hread .crc8Finalize rfl, hread .crc16Finalize rfl, hread (.readReg 0x11 0x08 1) (by decide), hread .endSym rfl,
    hread (.literal 0xF2#8) (by decide), hread .escStart rfl, hread (.addrW 0x11#7) rfl, hread (.addrR 0x11#7) rfl,
    decodeCmd_of_not_isOpCode 0x13#8 {} (by decide)⟩

end Sys2Proof.Machine
end

/-! ### Frames of instructions, inputs and steps (R13, R16, R27, R94, R176) -/

section
namespace Sys2Proof.Machine

/-! What a transaction writes and what it returns, whatever its body. -/

theorem State.writeTransaction_frame (s : State) (dev : DevAddr) (W : ByteString) :
    s.writeTransaction dev W = { s with
      acc8 := (s.writeTransaction dev W).acc8, accIx := (s.writeTransaction dev W).accIx,
      replies := (s.writeTransaction dev W).replies, freeIx := (s.writeTransaction dev W).freeIx,
      busLog := (s.writeTransaction dev W).busLog, result := (s.writeTransaction dev W).result } := by
  rw [State.writeTransaction_eq, State.busCall_frame, State.dropAcc8]

theorem State.readTransaction_frame (s : State) (dev : DevAddr) (reg : Byte) (n : Nat)
    (verify : ByteString → Option ByteString) :
    s.readTransaction dev reg n verify = { s with
      acc8 := (s.readTransaction dev reg n verify).acc8, accIx := (s.readTransaction dev reg n verify).accIx,
      replies := (s.readTransaction dev reg n verify).replies, freeIx := (s.readTransaction dev reg n verify).freeIx,
      busLog := (s.readTransaction dev reg n verify).busLog,
      result := (s.readTransaction dev reg n verify).result } := by
  rw [State.readTransaction_eq, State.busCall_frame, State.dropAcc8]

/-- Settles O60: by the instruction; received bytes are received behind the gate, transactions are one call or turned
away. -/
theorem everyInstructionsFrame : Obligations.EveryInstructionsFrame := by
  unfold Obligations.EveryInstructionsFrame
  intro i s t h
  cases i <;> dsimp only
  case literal b =>
    have hexec : exec (.literal b) s = execLiteral b s := rfl
    rw [hexec, execLiteral] at h
    split at h
    · cases h
    · obtain ⟨-, rfl⟩ := (whenConnected_next_iff _ _ _).mp h
      rfl
  case startSym | endSym | escapeSym | escStart | escEnd | escEsc =>
    obtain ⟨-, rfl⟩ := (whenConnected_next_iff _ _ _).mp h
    rfl
  case writeReg =>
    rw [exec_writeReg_eq_transaction, transaction_next_iff] at h
    obtain ⟨-, -, rfl⟩ := h
    exact s.writeTransaction_frame _ _
  case readReg =>
    rw [exec_readReg_eq_transaction, transaction_next_iff] at h
    obtain ⟨-, -, rfl⟩ := h
    exact s.readTransaction_frame _ _ _ _
  case writeMulti =>
    rw [exec_writeMulti_eq_transaction, transaction_next_iff] at h
    obtain ⟨-, -, rfl⟩ := h
    split
    · exact s.writeTransaction_frame _ _
    · rfl
  case readMulti =>
    rw [exec_readMulti_eq_transaction, transaction_next_iff] at h
    obtain ⟨-, -, rfl⟩ := h
    split
    · exact s.readTransaction_frame _ _ _ _
    · rfl
  all_goals
    injection h with h
    subst h
    rfl

/-- No instruction writes the configuration (R16). -/
theorem exec_cfg {i : Instr} {s t : State} (h : exec i s = .next t) : t.cfg = s.cfg := by
  have hframe := everyInstructionsFrame i s t h
  cases i <;> have hcfg := congrArg State.cfg hframe <;> exact hcfg

/-- UnwrittenAcc is recorded by a use of `⊥` and by nothing else (R94). -/
theorem exec_unwrittenAcc_iff {i : Instr} {s t : State} (h : exec i s = .next t) :
    t.unwrittenAcc = true ↔ s.unwrittenAcc = true ∨
      (s.acc8.isBottom = true ∧ ((∃ B, i = .crc8Update B) ∨ i = .crc8Finalize)) ∨
      (s.acc16.isBottom = true ∧ ((∃ B, i = .crc16Update B) ∨ i = .crc16Finalize)) := by
  have hframe := everyInstructionsFrame i s t h
  cases i <;> have hrecord := congrArg State.unwrittenAcc hframe <;> simp [hrecord]

/-- Everything an input that is no operation code can do to the configuration, the fault record, the decoder and the
session (R84, R103, R177, R178, R185). -/
theorem runInput_cases_of_not_code {x : Input} {s t : State} (hx : ∀ c, x ≠ .code c) (h : runInput x s = .next t) :
    t.cfg = s.cfg ∧ t.unwrittenAcc = s.unwrittenAcc ∧
    (t.dec = .reset ∨ ∃ B, t.dec = (decodeBytes s.dec B).1) ∧
    (t.session = s.session ∨ t.session = .closed ∨ (∃ c p o, t.session = s.session.connect c p o) ∨
      ∃ c, t.session = s.session.disconnect c) := by
  cases x with
  | code c => exact absurd rfl (hx c)
  | deliver B =>
    obtain ⟨-, rfl⟩ := (whenConnected_next_iff _ _ _).mp h
    exact ⟨rfl, rfl, .inr ⟨B, rfl⟩, .inl rfl⟩
  | sendMsg M =>
    obtain ⟨-, rfl⟩ := (whenConnected_next_iff _ _ _).mp h
    exact ⟨afterTrailer_cfg s, afterTrailer_unwrittenAcc s, .inr ⟨[], afterTrailer_dec s⟩, .inl (afterTrailer_session s)⟩
  | transmit W =>
    obtain ⟨-, rfl⟩ := (whenConnected_next_iff _ _ _).mp h
    exact ⟨rfl, rfl, .inr ⟨[], rfl⟩, .inl rfl⟩
  | checkMsg F =>
    injection h with h
    subst h
    exact ⟨afterTrailer_cfg s, afterTrailer_unwrittenAcc s, .inr ⟨[], afterTrailer_dec s⟩, .inl (afterTrailer_session s)⟩
  | checksum8 B =>
    injection h with h
    subst h
    exact ⟨rfl, rfl, .inr ⟨[], rfl⟩, .inl rfl⟩
  | checksum16 B =>
    injection h with h
    subst h
    exact ⟨rfl, rfl, .inr ⟨[], rfl⟩, .inl rfl⟩
  | connect c p o =>
    injection h with h
    subst h
    exact ⟨rfl, rfl, .inr ⟨[], rfl⟩, .inr (.inr (.inl ⟨c, p, o, rfl⟩))⟩
  | disconnect c =>
    injection h with h
    subst h
    exact ⟨rfl, rfl, .inr ⟨[], rfl⟩, .inr (.inr (.inr ⟨c, rfl⟩))⟩
  | resetCore =>
    injection h with h
    subst h
    exact ⟨rfl, rfl, .inl rfl, .inr (.inl rfl)⟩

/-- A code that runs to a next state is an instruction's code. -/
theorem runInput_code_next {c : Code} {s t : State} (h : runInput (.code c) s = .next t) :
    ∃ i, Sys2Proof.decode c = .ok i ∧ exec i s = .next t := by
  have hrun : runInput (.code c) s = runCode c s := rfl
  rw [hrun, runCode] at h
  split at h
  case h_1 i hdecode => exact ⟨i, hdecode, h⟩
  case h_2 => cases h

/-- A step that answers does nothing, runs an instruction, or runs an input that is no operation code. -/
theorem step_cases {s t : State} (h : step s = .next t) :
    (s.input = [] ∧ t = s) ∨
    (∃ i rest, exec i { s with input := rest } = .next t) ∨
    ∃ x rest, (∀ c, x ≠ .code c) ∧ runInput x { s with input := rest } = .next t := by
  rw [step, runNext] at h
  split at h
  case h_1 hinput =>
    injection h with h
    exact .inl ⟨hinput, h.symm⟩
  case h_2 x rest hinput =>
    by_cases hx : ∃ c, x = .code c
    · obtain ⟨c, rfl⟩ := hx
      obtain ⟨i, -, hexec⟩ := runInput_code_next h
      exact .inr (.inl ⟨i, rest, hexec⟩)
    · exact .inr (.inr ⟨x, rest, fun c hc => hx ⟨c, hc⟩, h⟩)

/-- Settles O58: no instruction and no other input writes it, and a step is one of these. -/
theorem configurationNeverChanges : Obligations.ConfigurationNeverChanges := by
  unfold Obligations.ConfigurationNeverChanges
  refine ⟨rfl, fun i s t h => exec_cfg h, fun s t h => ?step⟩
  case step =>
    obtain ⟨-, rfl⟩ | ⟨i, rest, hexec⟩ | ⟨x, rest, hx, hrun⟩ := step_cases h
    · rfl
    · exact exec_cfg (s := { s with input := rest }) hexec
    · exact (runInput_cases_of_not_code hx hrun).1

theorem closed_sessionInv : sessionInv .closed := by
  simp [sessionInv]

theorem reset_decoderInv : decoderInv .reset := fun _ => rfl

/-- Settles O57: the decoder's part and the session's part of the invariant. -/
theorem resetHasTheInvariant : Obligations.ResetHasTheInvariant := by
  unfold Obligations.ResetHasTheInvariant
  exact ⟨reset_decoderInv, closed_sessionInv⟩

/-- An instruction moves the decoder by received bytes and leaves the session alone. -/
theorem exec_keeps_stateInv {i : Instr} {s t : State} (hinv : stateInv s) (h : exec i s = .next t) : stateInv t := by
  obtain ⟨-, hsession, -, B, hdec⟩ := exec_keeps i s t h
  rw [stateInv, hsession, hdec]
  exact ⟨decodeBytes_keeps_decoderInv s.dec B hinv.1, hinv.2⟩

theorem runInput_keeps_stateInv_of_not_code {x : Input} {s t : State} (hx : ∀ c, x ≠ .code c) (hinv : stateInv s)
    (h : runInput x s = .next t) : stateInv t := by
  obtain ⟨hdecInv, hsessionInv⟩ := hinv
  obtain ⟨-, -, hdec, hsession⟩ := runInput_cases_of_not_code hx h
  refine ⟨?decoder, ?session⟩
  case decoder =>
    obtain hdec | ⟨B, hdec⟩ := hdec <;> rw [hdec]
    · exact reset_decoderInv
    · exact decodeBytes_keeps_decoderInv s.dec B hdecInv
  case session =>
    obtain hsession | hsession | ⟨c, p, o, hsession⟩ | ⟨c, hsession⟩ := hsession <;> rw [hsession]
    · exact hsessionInv
    · exact closed_sessionInv
    · exact connect_keeps_sessionInv s.session c p o hsessionInv
    · exact disconnect_keeps_sessionInv s.session c hsessionInv

/-- Settles O56: an idle step, an instruction, or another input keeps it. -/
theorem everyStepKeepsTheInvariant : Obligations.EveryStepKeepsTheInvariant := by
  unfold Obligations.EveryStepKeepsTheInvariant
  intro s t hinv h
  obtain ⟨-, rfl⟩ | ⟨i, rest, hexec⟩ | ⟨x, rest, hx, hrun⟩ := step_cases h
  · exact hinv
  · exact exec_keeps_stateInv (s := { s with input := rest }) hinv hexec
  · exact runInput_keeps_stateInv_of_not_code (s := { s with input := rest }) hx hinv hrun

theorem step_of_nil {s : State} (h : s.input = []) : step s = .next s := by
  rw [step, runNext, h]

theorem step_of_cons {s : State} {x : Input} {rest : List Input} (h : s.input = x :: rest) :
    step s = runInput x { s with input := rest } := by
  rw [step, runNext, h]

/-- Settles O52: an input, once taken, leaves the inputs behind it alone. -/
theorem stepTakesOneInput : Obligations.StepTakesOneInput := by
  unfold Obligations.StepTakesOneInput
  refine ⟨fun s h => step_of_nil h, fun s t x rest hinput h => ?_⟩
  rw [step_of_cons hinput] at h
  exact runInput_keeps_input x _ t h

theorem runInput_code_of_ok {c : Code} {i : Instr} (h : Sys2Proof.decode c = .ok i) (s : State) :
    runInput (.code c) s = exec i s := by
  have hrun : runInput (.code c) s = runCode c s := rfl
  rw [hrun, runCode, h]

/-- Settles O50: the input is taken, decoded and executed. -/
theorem stepRunsTheDecodedInstruction : Obligations.StepRunsTheDecodedInstruction := by
  unfold Obligations.StepRunsTheDecodedInstruction
  intro s c rest i hinput hdecode
  rw [step_of_cons hinput, runInput_code_of_ok hdecode]

/-- The decoder reads an instruction from a table word through the word's code. -/
theorem decodeTableWord_eq_some {nbits w : Nat} {i : Instr} (h : decodeTableWord nbits w = some i) :
    ∃ c, tableCode nbits w = some c ∧ Sys2Proof.decode c = .ok i := by
  rw [decodeTableWord] at h
  split at h
  case h_1 => cases h
  case h_2 c hcode =>
    split at h
    case h_1 j hdecode =>
      injection h with h
      exact ⟨c, hcode, h ▸ hdecode⟩
    case h_2 => cases h

theorem Session.ensureOpen_cases (x : Session) :
    x.ensureOpen = x ∨ (x.port = none ∧ x.ensureOpen.port.isSome = true) := by
  rw [Session.ensureOpen, Session.isOpen]
  split
  case isTrue => exact .inl rfl
  case isFalse h => exact .inr ⟨by simpa using h, rfl⟩

/-- Settles O51: the word's code is the next input, and only a gated code opens a session. -/
theorem fetchWordRunsTheTableInstruction : Obligations.FetchWordRunsTheTableInstruction := by
  unfold Obligations.FetchWordRunsTheTableInstruction
  intro s nbits w i h
  obtain ⟨c, hcode, hdecode⟩ := decodeTableWord_eq_some h
  refine ⟨_, step_withFetchWord s nbits w i c hcode hdecode, ?_⟩
  cases gatedCode c with
  | false => exact .inl rfl
  | true => exact s.session.ensureOpen_cases

/-- Settles O49: the two accumulators are dropped one after the other, each over its own free value. -/
theorem resetCoreEffect : Obligations.ResetCoreEffect := by
  unfold Obligations.ResetCoreEffect
  intro s
  have hrun : runInput .resetCore s = runResetCore s := rfl
  rw [hrun, runResetCore, State.dropAcc8, State.dropAcc16, Decoder.reset, Session.closed]

/-- A step never clears the fault record (R94). -/
theorem step_keeps_unwrittenAcc {s t : State} (h : step s = .next t) (hs : s.unwrittenAcc = true) :
    t.unwrittenAcc = true := by
  obtain ⟨-, rfl⟩ | ⟨i, rest, hexec⟩ | ⟨x, rest, hx, hrun⟩ := step_cases h
  · exact hs
  · exact (exec_unwrittenAcc_iff hexec).mpr (.inl hs)
  · rw [(runInput_cases_of_not_code hx hrun).2.1]
    exact hs

/-- A run that goes on has a first step that answers. -/
theorem run_succ_eq_next {n : Nat} {s t : State} (h : core.run (n + 1) s = .next t) :
    ∃ u, step s = .next u ∧ core.run n u = .next t := by
  cases hstep : step s with
  | next u =>
    rw [run_succ_of_next n s u hstep] at h
    exact ⟨u, rfl, h⟩
  | fault r => cases r
  | refused r =>
    rw [run_succ_of_refused n s r hstep] at h
    cases h

theorem run_keeps_unwrittenAcc {n : Nat} {s t : State} (h : core.run n s = .next t) (hs : s.unwrittenAcc = true) :
    t.unwrittenAcc = true := by
  induction n generalizing s with
  | zero =>
    obtain rfl : s = t := by injection h
    exact hs
  | succ n ih =>
    obtain ⟨u, hstep, hrun⟩ := run_succ_eq_next h
    exact ih hrun (step_keeps_unwrittenAcc hstep hs)

/-- Settles O7: recorded exactly by a use of `⊥`, kept by every step, and the operations' equations for what they do
after RESET and on `⊥`. -/
theorem faultExactlyOnUnwrittenAccumulator : Obligations.FaultExactlyOnUnwrittenAccumulator := by
  unfold Obligations.FaultExactlyOnUnwrittenAccumulator
  refine ⟨fun i s t h => exec_unwrittenAcc_iff h, fun n s t h => run_keeps_unwrittenAcc h,
    fun x s t hx h => (runInput_cases_of_not_code hx h).2.1, fun s t B h => ?reset8, fun s t B h => ?reset16,
    fun s held B h => ?bottom8, fun s held B h => ?bottom16⟩
  case reset8 =>
    rw [exec_crc8Reset, Host.Outcome.next.injEq] at h
    subst h
    exact ⟨⟨_, exec_crc8Update_of_val B _ _ rfl, rfl⟩, ⟨_, exec_crc8Finalize_of_val _ _ rfl, rfl⟩⟩
  case reset16 =>
    rw [exec_crc16Reset, Host.Outcome.next.injEq] at h
    subst h
    exact ⟨⟨_, exec_crc16Update_of_val B _ _ rfl, rfl⟩, ⟨_, exec_crc16Finalize_of_val _ _ rfl, rfl⟩⟩
  case bottom8 => simp [exec_crc8Update, exec_crc8Finalize, h]
  case bottom16 => simp [exec_crc16Update, exec_crc16Finalize, h]

end Sys2Proof.Machine
end

/-! ### Chunks, pseudo-operations, residues and error detection of the CRC (R95 to R99) -/

section
namespace Sys2Proof.Machine

/-- An accumulator folded twice is folded once over both strings (R96). -/
theorem Acc.fold_append {w : Nat} (p : CrcParams w) (A B : ByteString) (a : Acc w) :
    a.fold p (A ++ B) = (a.fold p A).fold p B := by
  cases a <;> simp [crcFold_append]

/-- Settles O11: the fold over a concatenation, in the register and in the accumulator that holds it; a use of `⊥` is
recorded once. -/
theorem updateChunkingLaw : Obligations.UpdateChunkingLaw := by
  unfold Obligations.UpdateChunkingLaw
  refine ⟨fun w p a A B => (crcFold_append p a A B).symm, fun s t A B h => ?engine8, fun s t A B h => ?engine16⟩
  case engine8 =>
    rw [exec_crc8Update, Host.Outcome.next.injEq] at h
    subst h
    simp only [exec_crc8Update, Acc.fold_append, Acc.fold_isBottom, Acc.fold_held, crcFold_append, Bool.or_assoc,
      Bool.or_self]
  case engine16 =>
    rw [exec_crc16Update, Host.Outcome.next.injEq] at h
    subst h
    simp only [exec_crc16Update, Acc.fold_append, Acc.fold_isBottom, Acc.fold_held, crcFold_append, Bool.or_assoc,
      Bool.or_self]

/-- Settles O12: after RESET the accumulator holds INIT, so UPDATE and FINALIZE are `crcFold` and `crcOut` on values. -/
theorem checksumPseudoOperationIsResetUpdateFinalize : Obligations.ChecksumPseudoOperationIsResetUpdateFinalize := by
  unfold Obligations.ChecksumPseudoOperationIsResetUpdateFinalize
  intro s B
  refine ⟨⟨_, _, _, exec_crc8Reset s, exec_crc8Update_of_val B _ _ rfl, exec_crc8Finalize_of_val _ _ rfl, rfl, rfl⟩,
    ⟨_, _, _, exec_crc16Reset s, exec_crc16Update_of_val B _ _ rfl, exec_crc16Finalize_of_val _ _ rfl, ?wire, rfl⟩⟩
  case wire =>
    exact ⟨_, _, congrArg Result.bytes (ser_sixteen (crc s.cfg.crc16 B)), ser_sixteen (crc s.cfg.crc16 B),
      toNat_eq_high_low (crc s.cfg.crc16 B)⟩

section Residue
variable {w : Nat}

@[simp] theorem reflect_reflect (v : BitVec w) : reflect (reflect v) = v :=
  BitVec.eq_of_getLsbD_eq fun i hi => by
    have hmirror : w - 1 - (w - 1 - i) = i := by omega
    rw [reflect_getLsbD _ i hi, reflect_getLsbD v _ (by omega), hmirror]

@[simp] theorem reflect_zero : reflect 0#w = 0#w :=
  BitVec.eq_of_getLsbD_eq fun i hi => by rw [reflect_getLsbD _ i hi, BitVec.getLsbD_zero, BitVec.getLsbD_zero]

/-- What is left of a checked string depends on the register before its checksum alone. -/
theorem crc_append_csum (p : CrcParams w) (B : ByteString) :
    crc p (B ++ csum p B) =
      crcOut p (crcFold p (crcFold p p.init B) (ser (crcOut p (crcFold p p.init B)))) := by
  rw [crc, crcFold_append, csum, crc]

/-- When the register's own wire form clears it, and a cleared register is output as zero, the tuple is legal (R98). -/
theorem zeroResidue_of_crcFold_eq_zero {p : CrcParams w} (hfold : ∀ a, crcFold p a (ser (crcOut p a)) = 0#w)
    (hout : crcOut p 0#w = 0#w) : ZeroResidue p := by
  intro B
  rw [crc_append_csum, hfold, hout]

end Residue

/-- Feeding the reflecting 8-bit register its own output clears it (the second condition of R98). -/
theorem crcStep_reflect_eight (p : CrcParams 8) (a : Byte) (h : p.refin = true) : crcStep p a (reflect a) = 0#8 := by
  simp [crcStep, crcEnter, crcInput, h]

/-- Settles O13: the register is fed its own value, its two bytes, or its reflection, which REFIN reflects back. -/
theorem zeroResidueSufficientConditions : Obligations.ZeroResidueSufficientConditions := by
  unfold Obligations.ZeroResidueSufficientConditions
  refine ⟨fun p hx hin hout => ?plain8, fun p hx hin hout => ?plain16, fun p hx hin hout => ?reflected8⟩
  case plain8 =>
    refine zeroResidue_of_crcFold_eq_zero (fun a => ?_) (crcOut_plain p _ hout hx)
    rw [crcOut_plain p a hout hx, ser_eight, crcFold_cons, crcStep_own_eight p a hin, crcFold_nil]
  case plain16 =>
    refine zeroResidue_of_crcFold_eq_zero (fun a => ?_) (crcOut_plain p _ hout hx)
    rw [crcOut_plain p a hout hx, crcFold_own_sixteen p a hin]
  case reflected8 =>
    have hreflect (a : Byte) : crcOut p a = reflect a := by rw [crcOut, if_pos hout, hx, BitVec.xor_zero]
    refine zeroResidue_of_crcFold_eq_zero (fun a => ?_) (by rw [hreflect, reflect_zero])
    rw [hreflect, ser_eight, crcFold_cons, crcStep_reflect_eight p a hin, crcFold_nil]

theorem not_zeroResidue_of_crc_ne_zero {w : Nat} {p : CrcParams w} {B : ByteString}
    (h : crc p (B ++ csum p B) ≠ 0#w) : ¬ ZeroResidue p := fun hz => h (hz B)

/-! The one-byte string 01 leaves a residue under every failing tuple of section 2.4's table: computed tuple by tuple. -/

theorem crc8_residue_of_one_ne_zero {init x : BitVec 8} {refin refout : Bool} (hinit : init = 0#8 ∨ init = 0xFF#8)
    (h : x = 0x55#8 ∨ x = 0xFF#8 ∨ (x = 0#8 ∧ refin ≠ refout)) :
    crc (w := 8) ⟨0x07#8, init, x, refin, refout⟩ ([0x01#8] ++ csum (w := 8) ⟨0x07#8, init, x, refin, refout⟩ [0x01#8]) ≠
      0#8 := by
  obtain rfl | rfl := hinit <;> obtain rfl | rfl | ⟨rfl, hne⟩ := h <;> cases refin <;> cases refout
  case inl.inr.inr.false.false | inl.inr.inr.true.true | inr.inr.inr.false.false | inr.inr.inr.true.true =>
    exact absurd rfl hne
  all_goals decide +kernel

theorem crc16_residue_of_one_ne_zero {init x : BitVec 16} {refin refout : Bool}
    (hinit : init = 0#16 ∨ init = 0xFFFF#16)
    (h : x = 0x5555#16 ∨ x = 0xFFFF#16 ∨ (x = 0#16 ∧ (refin = true ∨ refout = true))) :
    crc (w := 16) ⟨0x1021#16, init, x, refin, refout⟩
      ([0x01#8] ++ csum (w := 16) ⟨0x1021#16, init, x, refin, refout⟩ [0x01#8]) ≠ 0#16 := by
  obtain rfl | rfl := hinit <;> obtain rfl | rfl | ⟨rfl, hreflected⟩ := h <;> cases refin <;> cases refout
  case inl.inr.inr.false.false | inr.inr.inr.false.false => simp at hreflected
  all_goals decide +kernel

/-- Settles O14: the string 01 is a counterexample for each of the tuples. -/
theorem zeroResidueFailsForTheNamedTuples : Obligations.ZeroResidueFailsForTheNamedTuples := by
  unfold Obligations.ZeroResidueFailsForTheNamedTuples
  refine ⟨?width8, ?width16⟩
  case width8 =>
    rintro ⟨_, init, x, refin, refout⟩ rfl hinit h
    exact not_zeroResidue_of_crc_ne_zero (crc8_residue_of_one_ne_zero hinit h)
  case width16 =>
    rintro ⟨_, init, x, refin, refout⟩ rfl hinit h
    exact not_zeroResidue_of_crc_ne_zero (crc16_residue_of_one_ne_zero hinit h)

/-! With bit 0 of POLY set, nothing that enters the register is lost: the step is injective in the register and in the
byte (R99). -/

section Injective
variable {w : Nat} {p : CrcParams w}

/-- Bit 0 of the shifted register tells which bit was shifted out. -/
theorem crcShift_getLsbD_zero (hpoly : p.poly.getLsbD 0 = true) (a : BitVec w) :
    (crcShift p a).getLsbD 0 = a.msb := by
  rw [crcShift]
  cases a.msb with
  | false => simp
  | true => rw [if_pos rfl, BitVec.getLsbD_xor, hpoly, BitVec.getLsbD_shiftLeft]; simp

/-- Below the top, shifting moves each bit one place up. -/
theorem shiftLeft_one_getLsbD_succ (a : BitVec w) {i : Nat} (hi : i + 1 < w) :
    (a <<< 1).getLsbD (i + 1) = a.getLsbD i := by
  have hpos : ¬ i + 1 < 1 := by omega
  rw [BitVec.getLsbD_shiftLeft, decide_eq_true hi, decide_eq_false hpos, Nat.add_sub_cancel, Bool.not_false,
    Bool.true_and, Bool.true_and]

/-- A register is its top bit and what is left of it after the shift. -/
theorem eq_of_msb_eq_of_shiftLeft_eq {a b : BitVec w} (hmsb : a.msb = b.msb) (h : a <<< 1 = b <<< 1) : a = b := by
  refine BitVec.eq_of_getLsbD_eq fun i hi => ?_
  by_cases htop : i = w - 1
  · rw [htop, ← BitVec.msb_eq_getLsbD_last, ← BitVec.msb_eq_getLsbD_last, hmsb]
  · have hlt : i + 1 < w := by omega
    rw [← shiftLeft_one_getLsbD_succ a hlt, h, shiftLeft_one_getLsbD_succ b hlt]

theorem crcShift_injective (hpoly : p.poly.getLsbD 0 = true) : Function.Injective (crcShift p) := by
  intro a b h
  have hmsb : a.msb = b.msb := by rw [← crcShift_getLsbD_zero hpoly a, h, crcShift_getLsbD_zero hpoly b]
  refine eq_of_msb_eq_of_shiftLeft_eq hmsb ?_
  rw [crcShift, crcShift, hmsb] at h
  split at h
  · exact (BitVec.xor_left_inj p.poly).mp h
  · exact h

theorem crcShifts_injective (hpoly : p.poly.getLsbD 0 = true) (n : Nat) : Function.Injective (crcShifts p n) := by
  intro a b h
  rw [crcShifts_eq_iterate, crcShifts_eq_iterate] at h
  exact (crcShift_injective hpoly).iterate n h

theorem crcInput_injective : Function.Injective (crcInput p) := by
  intro b c h
  rw [crcInput, crcInput] at h
  split at h
  · rw [← reflect_reflect b, h, reflect_reflect]
  · exact h

/-- The byte stands in the top eight bits, whole. -/
theorem crcEnter_injective_byte (hw : 8 ≤ w) (a : BitVec w) : Function.Injective (crcEnter p a) := by
  intro b c h
  have htop := (BitVec.xor_right_inj a).mp h
  refine crcInput_injective (p := p) (BitVec.eq_of_getLsbD_eq fun i hi => ?_)
  have hbit := congrArg (fun x => x.getLsbD (w - 8 + i)) htop
  have hlt : w - 8 + i < w := by omega
  have hi' : i < w := by omega
  simpa [BitVec.getLsbD_shiftLeft, BitVec.getLsbD_setWidth, hlt, hi', hi] using hbit

theorem crcStep_injective_byte (hw : 8 ≤ w) (hpoly : p.poly.getLsbD 0 = true) (a : BitVec w) :
    Function.Injective (crcStep p a) :=
  (crcShifts_injective hpoly 8).comp (crcEnter_injective_byte hw a)

theorem crcFold_injective (hpoly : p.poly.getLsbD 0 = true) (B : ByteString) :
    Function.Injective fun a => crcFold p a B := by
  induction B with
  | nil => exact fun a a' h => h
  | cons b B ih => exact fun a a' h => (BitVec.xor_left_inj _).mp (crcShifts_injective hpoly 8 (ih h))

end Injective

/-- Flipping a bit of a byte changes it. -/
theorem xor_bit_ne_self (b : Byte) {k : Nat} (hk : k < 8) : b ^^^ (1#8 <<< k) ≠ b := by
  intro h
  have hbit := congrArg (fun x => x.getLsbD k) h
  simp [hk] at hbit

/-- Settles O15: the two strings differ in one byte, so the register differs after that byte and ever after; the output
is the register. -/
theorem singleBitFlipIsDetected : Obligations.SingleBitFlipIsDetected := by
  unfold Obligations.SingleBitFlipIsDetected
  intro w p X Y b k hwidth hx _ hout hpoly hk hzero hflipped
  have hw : 8 ≤ w := by omega
  rw [crc, crcOut_plain p _ hout hx, crcFold_append, crcFold_cons] at hzero hflipped
  have hregister := crcFold_injective hpoly Y (hflipped.trans hzero.symm)
  exact xor_bit_ne_self b hk (crcStep_injective_byte hw hpoly _ hregister)

/-! The register as a polynomial over GF(2) (R87). -/

section Polynomial
open Polynomial
variable {w : Nat}

/-- The polynomial whose coefficients are the bits: bit `i` is the coefficient of `x^i`. -/
noncomputable def bitPoly (v : BitVec w) : (ZMod 2)[X] := ∑ i ∈ Finset.range w, if v.getLsbD i then X ^ i else 0

/-- The generator polynomial, with its `x^w` term. -/
noncomputable def generator (p : CrcParams w) : (ZMod 2)[X] := X ^ w + bitPoly p.poly

theorem bitPoly_xor (a b : BitVec w) : bitPoly (a ^^^ b) = bitPoly a + bitPoly b := by
  rw [bitPoly, bitPoly, bitPoly, ← Finset.sum_add_distrib]
  refine Finset.sum_congr rfl fun i _ => ?_
  rw [BitVec.getLsbD_xor]
  cases a.getLsbD i <;> cases b.getLsbD i <;> simp [CharTwo.add_self_eq_zero]

/-- Shifting up is multiplication by `x`, but for the bit shifted out. -/
theorem X_mul_bitPoly (a : BitVec w) : X * bitPoly a = bitPoly (a <<< 1) + if a.msb then X ^ w else 0 := by
  cases w with
  | zero => simp [bitPoly, BitVec.msb_eq_getLsbD_last]
  | succ n =>
    have hbit (i : Nat) (hi : i ∈ Finset.range n) : (a <<< 1).getLsbD (i + 1) = a.getLsbD i :=
      shiftLeft_one_getLsbD_succ a (Nat.succ_lt_succ (Finset.mem_range.mp hi))
    have hlow : (a <<< 1).getLsbD 0 = false := by simp
    have hshifted : bitPoly (a <<< 1) = ∑ i ∈ Finset.range n, if a.getLsbD i then X ^ (i + 1) else 0 := by
      rw [bitPoly, Finset.sum_range_succ', hlow, if_neg Bool.false_ne_true, add_zero]
      exact Finset.sum_congr rfl fun i hi => by rw [hbit i hi]
    rw [hshifted, bitPoly, Finset.sum_range_succ, mul_add, Finset.mul_sum, BitVec.msb_eq_getLsbD_last,
      Nat.add_sub_cancel]
    simp only [mul_ite, mul_zero, ← pow_succ']

/-- One shift of the register is multiplication by `x`, less the generator when a bit was shifted out. -/
theorem bitPoly_crcShift (p : CrcParams w) (a : BitVec w) :
    bitPoly (crcShift p a) = X * bitPoly a + if a.msb then generator p else 0 := by
  rw [X_mul_bitPoly, crcShift]
  cases a.msb with
  | false => simp
  | true =>
    rw [if_pos rfl, if_pos rfl, if_pos rfl, bitPoly_xor, generator, add_assoc, ← add_assoc (X ^ w),
      CharTwo.add_self_eq_zero, zero_add]

theorem generator_dvd_crcShift (p : CrcParams w) (a : BitVec w) :
    generator p ∣ bitPoly (crcShift p a) - X * bitPoly a := by
  rw [bitPoly_crcShift, add_sub_cancel_left]
  split
  · exact dvd_rfl
  · exact dvd_zero _

theorem generator_dvd_crcShifts (p : CrcParams w) (n : Nat) (a : BitVec w) :
    generator p ∣ bitPoly (crcShifts p n a) - bitPoly a * X ^ n := by
  induction n generalizing a with
  | zero => simp [crcShifts]
  | succ n ih =>
    have hsplit : bitPoly (crcShifts p (n + 1) a) - bitPoly a * X ^ (n + 1) =
        (bitPoly (crcShifts p n (crcShift p a)) - bitPoly (crcShift p a) * X ^ n) +
          (bitPoly (crcShift p a) - X * bitPoly a) * X ^ n := by
      rw [crcShifts]
      ring
    rw [hsplit]
    exact dvd_add (ih (crcShift p a)) (Dvd.dvd.mul_right (generator_dvd_crcShift p a) _)

/-- A byte that stands in the top eight bits is the byte times `x^(w-8)`. -/
theorem bitPoly_top_byte (hw : 8 ≤ w) (b : Byte) :
    bitPoly (b.setWidth w <<< (w - 8)) = bitPoly b * X ^ (w - 8) := by
  obtain ⟨k, rfl⟩ : ∃ k, w = k + 8 := ⟨w - 8, by omega⟩
  have hbelow (i : Nat) (hi : i ∈ Finset.range k) : (b.setWidth (k + 8) <<< k).getLsbD i = false := by
    simp [BitVec.getLsbD_shiftLeft, Finset.mem_range.mp hi]
  have hbyte (i : Nat) (hi : i ∈ Finset.range 8) : (b.setWidth (k + 8) <<< k).getLsbD (k + i) = b.getLsbD i := by
    have hlt : i < 8 := Finset.mem_range.mp hi
    simp [hlt]
  rw [Nat.add_sub_cancel, bitPoly, Finset.sum_range_add, bitPoly, Finset.sum_mul,
    Finset.sum_eq_zero fun i hi => by rw [hbelow i hi, if_neg Bool.false_ne_true], zero_add]
  refine Finset.sum_congr rfl fun i hi => ?_
  rw [hbyte i hi, ite_mul, zero_mul, ← pow_add, Nat.add_comm k i]

theorem bitPoly_crcEnter (hw : 8 ≤ w) (p : CrcParams w) (a : BitVec w) (b : Byte) :
    bitPoly (crcEnter p a b) = bitPoly a + bitPoly (crcInput p b) * X ^ (w - 8) := by
  rw [crcEnter, bitPoly_xor, bitPoly_top_byte hw]

end Polynomial

/-- Settles O10: the byte enters as a multiple of `x^(w-8)`, and each of the eight shifts is multiplication by `x` modulo
the generator. -/
theorem crcStepIsPolynomialDivision : Obligations.CrcStepIsPolynomialDivision := by
  unfold Obligations.CrcStepIsPolynomialDivision
  intro w p a b hw P
  have hdvd := generator_dvd_crcShifts p 8 (crcEnter p a b)
  rw [bitPoly_crcEnter hw] at hdvd
  exact hdvd

end Sys2Proof.Machine
end

/-! ### Joining the session (R177, R179) -/

section
namespace Sys2Proof.Machine

section Connect
variable {s : State} {c port : Nat} {opens : Bool}

theorem runInput_connect_of_admits (h : s.session.admits c port opens = true) :
    runInput (.connect c port opens) s = .next { s with
      session := s.session.register c port, result := .connected true } := by
  have hrun : runInput (.connect c port opens) s = runConnect c port opens s := rfl
  rw [hrun, runConnect, Session.connect, if_pos h, h, State.return]

theorem runInput_connect_of_not_admits (h : s.session.admits c port opens = false) :
    runInput (.connect c port opens) s = .next { s with result := .connected false } := by
  have hrun : runInput (.connect c port opens) s = runConnect c port opens s := rfl
  rw [hrun, runConnect, Session.connect, h, if_neg Bool.false_ne_true, State.return]

variable {x : Session} {p : Nat}

theorem Session.admits_of_closed (h : x.port = none) : x.admits c port opens = opens := by
  rw [Session.admits, h]

/-- An open session admits a consumer that names its port, or that nobody holds it against (R177, R179). -/
theorem Session.admits_of_open (h : x.port = some p) :
    x.admits c port opens = true ↔ p = port ∨ ∀ y ∈ x.consumers, y = c := by
  simp [Session.admits, h, Session.heldByOther]

theorem Session.register_of_closed (h : x.port = none) :
    x.register c port = { port := some port, consumers := insertName c x.consumers } := by
  rw [Session.register, h, Option.getD_none]

theorem Session.register_of_open (h : x.port = some p) :
    x.register c port = { port := some p, consumers := insertName c x.consumers } := by
  rw [Session.register, h, Option.getD_some]

end Connect

/-- The set of consumers is `{c}` when nobody else was in it; a strictly rising list is determined by its members. -/
theorem insertName_of_not_heldByOther {c : Nat} {xs : List Nat} (hrising : xs.Pairwise (· < ·))
    (h : ∀ y ∈ xs, y = c) : insertName c xs = [c] := by
  refine (insertName_keeps_rising c xs hrising).eq_of_mem_iff (List.pairwise_singleton _ c) fun y => ?_
  rw [mem_insertName, List.mem_singleton]
  exact ⟨fun hy => hy.elim id (h y), .inl⟩

/-- Settles O46: whether the call is admitted, then the session `register` leaves. -/
theorem connectRegistersTheConsumer : Obligations.ConnectRegistersTheConsumer := by
  unfold Obligations.ConnectRegistersTheConsumer
  intro s c port hinv
  obtain ⟨hopen, hrising⟩ := hinv
  refine ⟨fun hport => ?openingFails, fun hport => ?opens, fun opens hport => ?samePort,
    fun opens p hport hp hheld => ?rejected, fun opens p hport _ hsole => ?soleHolder⟩
  case openingFails => exact runInput_connect_of_not_admits (Session.admits_of_closed hport)
  case opens =>
    have hnone : s.session.consumers = [] := by
      rw [hport] at hopen
      simpa using hopen
    rw [runInput_connect_of_admits (Session.admits_of_closed hport), Session.register_of_closed hport, hnone]
    rfl
  case samePort =>
    refine ⟨_, runInput_connect_of_admits ((Session.admits_of_open hport).mpr (.inl rfl)), ?state, fun x => ?members⟩
    case state => rw [Session.register_of_open hport]
    case members => exact mem_insertName c x s.session.consumers
  case rejected =>
    refine runInput_connect_of_not_admits (Bool.eq_false_of_not_eq_true fun hadmits => ?_)
    obtain ⟨x, hx, hne⟩ := hheld
    exact ((Session.admits_of_open hport).mp hadmits).elim hp fun hall => hne (hall x hx)
  case soleHolder =>
    rw [runInput_connect_of_admits ((Session.admits_of_open hport).mpr (.inr hsole)), Session.register_of_open hport,
      insertName_of_not_heldByOther hrising hsole]

end Sys2Proof.Machine
end

/-! ### Past results, and the outcomes of each operation (R28, R160, R170) -/

section
namespace Sys2Proof.Machine

/-! What a transaction reads of the state: neither the last result, nor TX, nor the bus calls made. -/

section Past
variable (s : State) (r : Result) (tx : ByteString) (log : List BusCall)

theorem State.popReply_of_result : State.popReply { s with result := r } = { s.popReply with result := r } := by
  unfold State.popReply
  dsimp only
  split <;> rfl

theorem State.writeTransaction_of_result (dev : DevAddr) (W : ByteString) :
    State.writeTransaction { s with result := r } dev W = s.writeTransaction dev W := by
  rw [State.writeTransaction_eq, State.writeTransaction_eq, State.busCall, State.popReply_of_result]
  rfl

theorem State.readTransaction_of_result (dev : DevAddr) (reg : Byte) (n : Nat)
    (verify : ByteString → Option ByteString) :
    State.readTransaction { s with result := r } dev reg n verify = s.readTransaction dev reg n verify := by
  rw [State.readTransaction_eq, State.readTransaction_eq, State.busCall, State.popReply_of_result]
  rfl

/-- Every operation overwrites the last result without reading it. -/
theorem exec_of_result (i : Instr) : exec i { s with result := r } = exec i s := by
  cases i
  case writeReg dev reg data =>
    simp only [exec_writeReg_eq_transaction, transaction, whenConnected, State.writeTransaction_of_result]
  case readReg dev reg n =>
    simp only [exec_readReg_eq_transaction, transaction, whenConnected, State.readTransaction_of_result]
  case writeMulti dev reg sizes data =>
    simp only [exec_writeMulti_eq_transaction, transaction, whenConnected, State.writeTransaction_of_result]
    rfl
  case readMulti dev reg sizes n =>
    simp only [exec_readMulti_eq_transaction, transaction, whenConnected, State.readTransaction_of_result]
    rfl
  all_goals rfl

/-- What two next states are compared by: what is returned, the decoder and the two accumulators. -/
def SameOutcome (t t' : State) : Prop :=
  t'.result = t.result ∧ t'.dec = t.dec ∧ t'.acc8 = t.acc8 ∧ t'.acc16 = t.acc16

theorem State.writeTransaction_sameOutcome (dev : DevAddr) (W : ByteString) :
    SameOutcome (s.writeTransaction dev W) (State.writeTransaction { s with tx := tx, busLog := log } dev W) := by
  rw [State.writeTransaction_eq, State.writeTransaction_eq]
  exact ⟨rfl, by simp, by simp, by simp⟩

theorem State.readTransaction_sameOutcome (dev : DevAddr) (reg : Byte) (n : Nat)
    (verify : ByteString → Option ByteString) :
    SameOutcome (s.readTransaction dev reg n verify)
      (State.readTransaction { s with tx := tx, busLog := log } dev reg n verify) := by
  rw [State.readTransaction_eq, State.readTransaction_eq]
  exact ⟨rfl, by simp, by simp, by simp⟩

variable {s}

/-- A transaction is let through whatever is on TX or was on the bus. -/
theorem transaction_sameOutcome {dev reg : Nat} {t : State} {body body' : DevAddr → Byte → State}
    (hbody : ∀ d r, SameOutcome (body d r) (body' d r)) (h : transaction dev reg s body = .next t) :
    ∃ t', transaction dev reg { s with tx := tx, busLog := log } body' = .next t' ∧ SameOutcome t t' := by
  obtain ⟨hrange, hopen, rfl⟩ := (transaction_next_iff _ _ _ _ _).mp h
  exact ⟨_, (transaction_next_iff _ _ _ _ _).mpr ⟨hrange, hopen, rfl⟩, hbody _ _⟩

theorem receive_sameOutcome {t : State} {B : ByteString} (h : whenConnected s (s.receive B) = .next t) :
    ∃ t', whenConnected { s with tx := tx, busLog := log } (State.receive { s with tx := tx, busLog := log } B) =
      .next t' ∧ SameOutcome t t' := by
  obtain ⟨hopen, rfl⟩ := (whenConnected_next_iff _ _ _).mp h
  exact ⟨_, (whenConnected_next_iff _ _ _).mpr ⟨hopen, rfl⟩, rfl, rfl, rfl, rfl⟩

theorem exec_sameOutcome {i : Instr} {t : State} (h : exec i s = .next t) :
    ∃ t', exec i { s with tx := tx, busLog := log } = .next t' ∧ SameOutcome t t' := by
  cases i
  case writeReg dev reg data =>
    rw [exec_writeReg_eq_transaction] at h ⊢
    exact transaction_sameOutcome tx log (fun d r => s.writeTransaction_sameOutcome tx log d _) h
  case readReg dev reg n =>
    rw [exec_readReg_eq_transaction] at h ⊢
    exact transaction_sameOutcome tx log (fun d r => s.readTransaction_sameOutcome tx log d r _ _) h
  case writeMulti dev reg sizes data =>
    rw [exec_writeMulti_eq_transaction] at h ⊢
    refine transaction_sameOutcome tx log (fun d r => ?_) h
    split
    · exact s.writeTransaction_sameOutcome tx log d _
    · exact ⟨rfl, rfl, rfl, rfl⟩
  case readMulti dev reg sizes n =>
    rw [exec_readMulti_eq_transaction] at h ⊢
    refine transaction_sameOutcome tx log (fun d r => ?_) h
    split
    · exact s.readTransaction_sameOutcome tx log d r _ _
    · exact ⟨rfl, rfl, rfl, rfl⟩
  case literal b =>
    cases hb : reserved b with
    | true =>
      rw [exec_literal_of_reserved b s hb] at h
      cases h
    | false =>
      rw [exec_literal_of_not_reserved b s hb] at h
      rw [exec_literal_of_not_reserved b _ hb]
      exact receive_sameOutcome tx log h
  case startSym | endSym | escapeSym | escStart | escEnd | escEsc => exact receive_sameOutcome tx log h
  all_goals
    injection h with h
    subst h
    exact ⟨_, rfl, rfl, rfl, rfl, rfl⟩

end Past

/-- Settles O59: the last result is overwritten unread, and TX and the bus log are written only. -/
theorem pastResultsDoNotMatter : Obligations.PastResultsDoNotMatter := by
  unfold Obligations.PastResultsDoNotMatter
  exact fun i s r tx log => ⟨exec_of_result s r i, fun t h => exec_sameOutcome tx log h⟩

/-! Which operation can end how (R160). -/

/-- An instruction that ends in an error, by the class of the error. -/
theorem exec_err_instr {i : Instr} {s t : State} {e : ErrorClass} (h : exec i s = .next t) (he : t.result = .err e) :
    (e = .checksum ∧ ((∃ d r n, i = .readReg d r n) ∨ ∃ d r l n, i = .readMulti d r l n)) ∨
    (e = .bus ∧ ((∃ d r b, i = .writeReg d r b) ∨ (∃ d r n, i = .readReg d r n) ∨ (∃ d r l b, i = .writeMulti d r l b) ∨
      ∃ d r l n, i = .readMulti d r l n)) ∨
    (e = .protocolViolation ∧ ((∃ d r l b, i = .writeMulti d r l b) ∨ ∃ d r l n, i = .readMulti d r l n)) := by
  rcases exec_cases i s t h with ⟨-, -, hne, -⟩ | ⟨-, -, hne, -⟩ | ⟨-, -, hne, -⟩ | ⟨B, rfl, -⟩ | ⟨rfl, hi⟩ |
    ⟨d, W, rfl, hi⟩ | ⟨d, r, n, v, rfl, hi⟩
  case inr.inr.inr.inl => cases he
  case inr.inr.inr.inr.inl =>
    cases he
    exact .inr (.inr ⟨rfl, hi⟩)
  case inr.inr.inr.inr.inr.inl =>
    exact .inr (.inl ⟨(State.writeTransaction_of_err he).1, hi.elim .inl fun hm => .inr (.inr (.inl hm))⟩)
  case inr.inr.inr.inr.inr.inr =>
    obtain hchecksum | hbus := (State.readTransaction_of_err he).1
    · exact .inl ⟨hchecksum, hi⟩
    · exact .inr (.inl ⟨hbus, hi.elim (fun hr => .inr (.inl hr)) fun hm => .inr (.inr (.inr hm))⟩)
  all_goals exact absurd he (hne e)

/-- Only the decoder's instructions return events (R103). -/
theorem exec_events_instr {i : Instr} {s t : State} {ev : List Event} (h : exec i s = .next t)
    (hev : t.result = .events ev) :
    (∃ B, i = .decode B) ∨ i = .startSym ∨ i = .endSym ∨ i = .escapeSym ∨ (∃ b, i = .literal b) ∨ i = .escStart ∨
      i = .escEnd ∨ i = .escEsc := by
  rcases exec_cases i s t h with ⟨-, -, -, hne, -⟩ | ⟨-, -, -, hne, -⟩ | ⟨-, -, -, hne, -⟩ | ⟨B, -, hi⟩ | ⟨rfl, -⟩ |
    ⟨d, W, rfl, -⟩ | ⟨d, r, n, v, rfl, -⟩
  case inr.inr.inr.inl => exact hi
  case inr.inr.inr.inr.inl => cases hev
  case inr.inr.inr.inr.inr.inl =>
    obtain ⟨-, ht⟩ | ⟨-, ht⟩ := writeTransaction_cases s d W <;> rw [ht] at hev <;> cases hev
  case inr.inr.inr.inr.inr.inr =>
    obtain ⟨res, ht, ⟨-, rfl⟩ | ⟨_, -, -, -, rfl⟩ | ⟨_, _, -, -, -, rfl⟩⟩ := readTransaction_cases s d r n v <;>
      rw [ht] at hev <;> cases hev
  all_goals exact absurd hev (hne ev)

theorem checkMsgResult_cases (cfg : Cfg) (F : ByteString) :
    checkMsgResult cfg F = .err .checksum ∨ ∃ M, checkMsgResult cfg F = .okMessage M := by
  rw [checkMsgResult]
  split_ifs
  · exact .inl rfl
  · exact .inr ⟨_, rfl⟩
  · exact .inl rfl
  · exact .inr ⟨_, rfl⟩

/-! A state in which every outcome can be met: the reference configuration with the trailer (R9), a session open, and the
bus about to give one answer. -/

/-- The reference tuples, with the trailer (R9). -/
def referenceCfg : Cfg := { crc8 := Config.crc8Ref, crc16 := Config.crc16Ref, trailer16 := true }

/-- After reset, a session open, the bus about to answer `r`. -/
def readyFor (r : BusReply) : State :=
  { State.reset with cfg := referenceCfg, session := { port := some 0, consumers := [0] }, replies := [r] }

theorem readyFor_open (r : BusReply) : (readyFor r).session.port.isSome = true := rfl
theorem readyFor_replies (r : BusReply) : (readyFor r).replies = [r] := rfl

/-- The answer of section 4.3's vectors with its checksum byte off by one bit: its residue is not zero. -/
theorem readyFor_crc_ne_zero (r : BusReply) :
    crc (readyFor r).cfg.crc8 (preR 0x11#7 0x08#8 ++ [0x05#8, 0x38#8]) ≠ 0#8 := by
  have hcfg : (readyFor r).cfg.crc8 = Config.crc8Ref := rfl
  have hcovered : preR 0x11#7 0x08#8 ++ [0x05#8, 0x38#8] = [0x22#8, 0x08#8, 0x23#8, 0x05#8, 0x38#8] := by decide
  rw [hcfg, hcovered, crc8Ref_readRegExample.2]
  decide

/-- Both errors of a single-register read: that answer, and a bus that fails. -/
theorem readyFor_readReg_err {e : ErrorClass} (he : e ∈ [ErrorClass.checksum, .bus]) :
    ∃ r t, exec (.readReg 0x11 0x08 1) (readyFor r) = .next t ∧ t.result = .err e := by
  have hexec (r : BusReply) := exec_readReg_of_open 0x11#7 0x08#8 (readyFor_open r) 1
  simp only [List.mem_cons, List.not_mem_nil, or_false] at he
  obtain rfl | rfl := he
  · exact ⟨.busData [0x05#8, 0x38#8], _, exec_read_of_cons (hexec _) (readyFor_replies _)
      (readResult_of_not_verified rfl (verifyReg_of_crc_ne_zero 1 (readyFor_crc_ne_zero _))), rfl⟩
  · exact ⟨.busFail, _, exec_read_of_cons (hexec _) (readyFor_replies _) readResult_busFail, rfl⟩

/-- Settles O43: the errors and events an instruction can give by `exec_cases`, then a state and operands for each outcome
the table admits. -/
theorem outcomesOfEachOperation : Obligations.OutcomesOfEachOperation := by
  unfold Obligations.OutcomesOfEachOperation
  refine ⟨fun i s t e h he => exec_err_instr h he, fun i s t ev h hev => exec_events_instr h hev,
    fun s t M h => ?sendMsg, fun s t F h => ?checkMsg, fun c => ?framing, ?trailer, ?writeReg, fun e he => ?readReg,
    fun e he => ?writeMulti, fun e he => ?readMulti⟩
  case sendMsg =>
    obtain ⟨-, rfl⟩ := (whenConnected_next_iff _ _ _).mp h
    exact ⟨_, rfl⟩
  case checkMsg =>
    rw [runInput_checkMsg, Host.Outcome.next.injEq] at h
    rw [← h]
    exact checkMsgResult_cases s.cfg F
  case framing =>
    have hopened := dstep_waiting_start .reset rfl
    cases c with
    | unexpectedStart =>
      have hagain := dstep_accumulating_start { state := .accumulating, buf := [] } rfl
      exact ⟨State.reset, _, _, _, exec_decode_of_decodeBytes
        (decodeBytes_cons_of_dstep hopened (decodeBytes_singleton_of_dstep hagain)), rfl, List.mem_singleton_self _⟩
    | invalidEscape =>
      have hbroken := decodeBytes_brokenFrame (d := .reset) (b := 0x00#8) [] (R := []) rfl (by decide)
        (List.not_mem_nil)
      exact ⟨State.reset, _, _, _, exec_decode_of_decodeBytes hbroken, rfl, List.mem_singleton_self _⟩
  case trailer =>
    exact ⟨readyFor .busOk, _, [], runInput_checkMsg_of_trailer rfl (checkMsgResult_of_short _ [] rfl (by decide)), rfl⟩
  case writeReg =>
    exact ⟨readyFor .busFail, _, _, _, [], exec_write_of_cons (exec_writeReg_of_open 0#7 0#8 (readyFor_open _) [])
      (readyFor_replies _) writeResult_busFail, rfl⟩
  case readReg =>
    obtain ⟨r, t, h, hres⟩ := readyFor_readReg_err he
    exact ⟨readyFor r, t, _, _, _, h, hres⟩
  case writeMulti =>
    simp only [List.mem_cons, List.not_mem_nil, or_false] at he
    obtain rfl | rfl := he
    · exact ⟨readyFor .busFail, _, _, _, [0], [], exec_write_of_cons
        (exec_writeMulti_of_wellFormed 0#7 0#8 (readyFor_open _) (List.cons_ne_nil _ _) rfl)
        (readyFor_replies _) writeResult_busFail, rfl⟩
    · exact ⟨readyFor .busOk, _, _, _, [], [], exec_writeMulti_of_illFormed 0#7 0#8 (readyFor_open _) (.inl rfl), rfl⟩
  case readMulti =>
    rw [List.mem_cons, List.mem_cons, ← or_assoc] at he
    obtain he | he := he
    · obtain ⟨r, t, h, hres⟩ := readyFor_readReg_err (List.mem_cons.mpr (he.imp id List.mem_singleton.mpr))
      rw [(singleRegisterIsOneRegisterMulti (readyFor r) 0x11 0x08).2 1] at h
      exact ⟨readyFor r, t, _, _, _, _, h, hres⟩
    · obtain rfl := List.mem_singleton.mp he
      exact ⟨readyFor .busOk, _, _, _, [], 0, exec_readMulti_of_illFormed 0#7 0#8 (readyFor_open _) (.inl rfl), rfl⟩

end Sys2Proof.Machine
end
